-- ==== Sys2Proof/Word.lean ====
section
/-! DEFINITION. The word types of the BRG (00_scope.md R8: every value is unsigned). -/

namespace Sys2Proof

/-- A byte, a buffer entry or a character code (8 bits). -/
abbrev Byte := BitVec 8

/-- A 5-bit group, the codec's native unit (00_scope.md R12). -/
abbrev Group := BitVec 5

/-- A register value on the 32-bit bus (00_scope.md R6). -/
abbrev Word := BitVec 32

/-- An offset inside the 4096-byte window (20_memory.md R30). -/
abbrev Offset := BitVec 12

/-- The number of an entry of IN or OUT, 0..255 (10_state.md R23, R24). -/
abbrev Index := BitVec 8

end Sys2Proof
end

