-- ==== Sys2Proof/Config.lean ====
section
/-! DEFINITION. The parameters of 00_scope.md R6: the fixed ones as constants, the OPEN ones as the
structure `Params` that State carries, and the free values (UNSPECIFIED, R11). LAT is OPEN too, and no
rule depends on it (R109): the model has no time, see notes/assumptions/2.md. -/

namespace Sys2Proof

/-- MAX_GROUPS: the most groups an encode produces (R6). -/
def Config.maxGroups : Nat := 64

/-- MAX_SYMBOLS: the longest decode input (R6). -/
def Config.maxSymbols : Nat := 64

/-- IN_CAP: entries of the input buffer (R6). -/
def Config.inCap : Nat := 256

/-- OUT_CAP: entries of the output buffer (R6). -/
def Config.outCap : Nat := 256

/-- WINDOW: bytes of the bus window (R6). -/
def Config.window : Nat := 4096

/-- BUS_WIDTH: the only access width, in bits (R6, R33). -/
def Config.busWidth : Nat := 32

/-- ID_VALUE (R6, 10_state.md R16). -/
def Config.idValue : Word := 0x42524701#32

/-- The default WS_SET (R6, 43_decode.md R77). -/
def Config.defaultWsSet : List Byte := [0x09#8, 0x0A#8, 0x0B#8, 0x0C#8, 0x0D#8, 0x20#8]

/-- UNSPECIFIED_8 (R11, 40_command_execution.md R53): the `n`-th free byte drawn. It has no body, so a
statement that reads one holds for every value. DESIGN CHOICE (notes/assumptions/7.md), safe. -/
opaque Config.freeByte : Nat → Byte

/-- The OPEN parameters (R6), arguments of the model. DESIGN CHOICE (notes/assumptions/3.md), safe. -/
structure Params where
  /-- BASE = 4096 * basePage: BASE is a multiple of 4096 (20_memory.md R30). -/
  basePage : Nat
  /-- WS_SET: the codes DECODE_SYM treats as whitespace (43_decode.md R77). -/
  wsSet    : List Byte
  deriving DecidableEq, Repr

/-- BASE, the bus address of offset 0x000 (20_memory.md R30). -/
def Config.base (page : Nat) : Nat := Config.window * page

/-- The parameters of `State.reset`: WS_SET at the spec's default (R77), BASE at 0.
DESIGN CHOICE for BASE (notes/assumptions/3.md): no statement rests on it. -/
def Params.default : Params := { basePage := 0, wsSet := Config.defaultWsSet }

end Sys2Proof
end

