-- ==== Sys2Proof/Syntax.lean ====
section
/-! DEFINITION. The instructions of the BRG, one constructor per row of spec/opcode_table.json, and the
bus transactions that carry them. -/

namespace Sys2Proof

/-- The twelve rows of the opcode table (30_encoding.md R43..R49, 40_command_execution.md R53, R54).
`nullin` is CMD bit 4 (R47); `rsv` is CMD[31:5] (R48); `rest` is the 31 ignored bits of a word whose
START bit is 0 (R45). A bus access gives its offset, its width in bits and, for a write, its data. -/
inductive Instr
  | encRaw (nullin : Bool)
  | decRaw (nullin : Bool)
  | encSym (nullin : Bool)
  | decSym (nullin : Bool)
  | beMin (nullin : Bool)
  | illegalOp5 (nullin : Bool)
  | illegalOp6 (nullin : Bool)
  | illegalOp7 (nullin : Bool)
  | illegalRsv (op : BitVec 3) (nullin : Bool) (rsv : BitVec 27)
  | nop (rest : BitVec 31)
  | rd (off : Offset) (width : Nat)
  | wr (off : Offset) (width : Nat) (v : Word)
  deriving DecidableEq, Repr

/-- One host access as the bus delivers it: a bus address, a width in bits and, for a write, the data
(20_memory.md R30, R33: the BRG has no byte enables). -/
inductive BusOp
  | read (addr : Nat) (width : Nat)
  | write (addr : Nat) (width : Nat) (data : Word)
  deriving DecidableEq, Repr

end Sys2Proof
end

