-- ==== Sys2Proof/WellFormed.lean ====
section
/-! DEFINITION. Which terms of `Instr` are the spelling of an instruction. -/

namespace Sys2Proof

/-- Two checks. An `illegalRsv` has some reserved bit set (opcode_table.json, row illegal.rsv: "bits 31:5
!= 0"). A 32-bit write to CMD is spelled by its command word's own row, not by `wr` (row wr: "CMD writes
decode as the rows above"); `exec` gives that `wr` its meaning all the same. Every other term is well
formed, misaligned and odd-width accesses included: they are answered with BusError (R34). -/
def Instr.wellFormed : Instr → Bool
  | .encRaw _ => true
  | .decRaw _ => true
  | .encSym _ => true
  | .decSym _ => true
  | .beMin _ => true
  | .illegalOp5 _ => true
  | .illegalOp6 _ => true
  | .illegalOp7 _ => true
  | .illegalRsv _ _ rsv => rsv != 0#27
  | .nop _ => true
  | .rd _ _ => true
  | .wr off width _ => !(off == 0x004#12 && width == Config.busWidth)

end Sys2Proof
end

