-- ==== Sys2Proof/Decode.lean ====
section
/-! DEFINITION. The decoder, total on every bus transaction and on every CMD word, and after it the
encoder. The unit the BRG decodes is one host access; a CMD word is the data of a 32-bit write to offset
0x004 (30_encoding.md R44), and its bytes have no order of their own on the bus (20_memory.md R37). -/

namespace Sys2Proof

/-- OP, CMD[3:1] (30_encoding.md R43). -/
def cmdOp (w : Word) : BitVec 3 := w.extractLsb' 1 3

/-- NULLIN, CMD[4] (R43). -/
def cmdNullin (w : Word) : Bool := w.getLsbD 4

/-- RSV, CMD[31:5] (R43). -/
def cmdRsv (w : Word) : BitVec 27 := w.extractLsb' 5 27

/-- START, CMD[0] (R43). -/
def cmdStart (w : Word) : Bool := w.getLsbD 0

/-- DECODE_CMD (R49): the meaning of a word written to CMD, total on every word. The tests stand in R49's
order, which is the rows' decode_priority: START, then RSV, then OP. DEDUCED (notes/assumptions/8.md). -/
def decodeCmd (w : Word) : Instr :=
  if cmdStart w = false then .nop (w.extractLsb' 1 31)
  else if cmdRsv w ≠ 0#27 then .illegalRsv (cmdOp w) (cmdNullin w) (cmdRsv w)
  else if cmdOp w = 0b000#3 then .encRaw (cmdNullin w)
  else if cmdOp w = 0b001#3 then .decRaw (cmdNullin w)
  else if cmdOp w = 0b010#3 then .encSym (cmdNullin w)
  else if cmdOp w = 0b011#3 then .decSym (cmdNullin w)
  else if cmdOp w = 0b100#3 then .beMin (cmdNullin w)
  else if cmdOp w = 0b101#3 then .illegalOp5 (cmdNullin w)
  else if cmdOp w = 0b110#3 then .illegalOp6 (cmdNullin w)
  else .illegalOp7 (cmdNullin w)

/-- Why a bus transaction is not an instruction of the BRG. -/
inductive DecodeError
  /-- Its address is outside the window, so it does not reach the BRG (20_memory.md R30). -/
  | outsideWindow
  deriving DecidableEq, Repr

/-- What the decoder answers: an instruction, or a rejection by name. -/
inductive Decoded
  | instr (i : Instr)
  | rejected (e : DecodeError)
  deriving DecidableEq, Repr

/-- The offset of bus address `a`, if `BASE <= a < BASE + 4096` (R30). -/
def windowOffset (page a : Nat) : Option Offset :=
  if Config.base page ≤ a ∧ a < Config.base page + Config.window then
    some (BitVec.ofNat 12 (a - Config.base page))
  else none

/-- The instruction a host access asks for: a 32-bit write to CMD is its command word (R44, R49), any
other access to the window is `rd` or `wr` (40_command_execution.md R53, R54). -/
def decode (page : Nat) (t : BusOp) : Decoded :=
  match t with
  | .read a width =>
    match windowOffset page a with
    | some off => .instr (.rd off width)
    | none => .rejected .outsideWindow
  | .write a width v =>
    match windowOffset page a with
    | some off =>
      if off = 0x004#12 ∧ width = Config.busWidth then .instr (decodeCmd v)
      else .instr (.wr off width v)
    | none => .rejected .outsideWindow

/-- The instruction read from a table word: a CMD word of 32 bits (R44: every command is exactly one
32-bit write). A table row gives no more than 32 bits; a shorter one has zeros above. -/
def decodeTableWord (nbits w : Nat) : Option Instr :=
  if nbits ≤ 32 ∧ w < 2 ^ 32 then some (decodeCmd (BitVec.ofNat 32 w)) else none

/-! ### The encoder -/

/-- The CMD word `rrr...r n ooo s` of R43, most significant field first. -/
def cmdWord (rsv : BitVec 27) (nullin : Bool) (op : BitVec 3) (start : Bool) : Word :=
  rsv.setWidth 32 <<< 5 ||| (BitVec.ofBool nullin).setWidth 32 <<< 4 ||| op.setWidth 32 <<< 1
    ||| (BitVec.ofBool start).setWidth 32

/-- The START word of operation `op` with no reserved bit set (R46, R49). -/
def opWord (op : BitVec 3) (nullin : Bool) : Word := cmdWord 0#27 nullin op true

/-- The 32-bit write of a word to CMD, in a window at `4096 * page` (20_memory.md R31). -/
def cmdWrite (page : Nat) (w : Word) : BusOp :=
  .write (Config.base page + 0x004) Config.busWidth w

/-- The host access that is instruction `i`, in a window at `4096 * page`: a command row is the write of
its word to CMD (R44, R46), a bus access is itself (R53, R54). -/
def encode (page : Nat) (i : Instr) : BusOp :=
  match i with
  | .encRaw nullin => cmdWrite page (opWord 0b000#3 nullin)
  | .decRaw nullin => cmdWrite page (opWord 0b001#3 nullin)
  | .encSym nullin => cmdWrite page (opWord 0b010#3 nullin)
  | .decSym nullin => cmdWrite page (opWord 0b011#3 nullin)
  | .beMin nullin => cmdWrite page (opWord 0b100#3 nullin)
  | .illegalOp5 nullin => cmdWrite page (opWord 0b101#3 nullin)
  | .illegalOp6 nullin => cmdWrite page (opWord 0b110#3 nullin)
  | .illegalOp7 nullin => cmdWrite page (opWord 0b111#3 nullin)
  | .illegalRsv op nullin rsv => cmdWrite page (cmdWord rsv nullin op true)
  | .nop rest => cmdWrite page (rest.setWidth 32 <<< 1)
  | .rd off width => .read (Config.base page + off.toNat) width
  | .wr off width v => .write (Config.base page + off.toNat) width v

end Sys2Proof
end

