-- ==== Sys2Proof/Machine/State.lean ====
section
/-! DEFINITION. The state of the BRG: the tuple of 10_state.md R13, and after it the model's own fields. -/

namespace Sys2Proof.Machine

/-- A buffer as the list of its entries that hold a value, keyed by entry number, strictly rising, no
entry at 256 or above (`Memory.wf`). An entry not listed holds no value the model may name
(10_state.md R23, R24; notes/assumptions/4.md). -/
abbrev Memory := List Host.Cell

/-- Why the machine stops with a fault. -/
inductive Fault
  /-- Raised by the engine's COMPLETE (`complete`, 70_reset_and_hazards.md R103): the running operation
  reads an input entry not written since reset. Safe: the chip computes some result, the model none. -/
  | unwrittenInput
  deriving DecidableEq, Repr

/-- Why an instruction has no meaning. -/
inductive Refusal
  /-- Raised by `exec` for a row of the opcode table with no meaning yet; no row is left. Safe. -/
  | notModelled (mnemonic : String)
  deriving DecidableEq, Repr

/-- The error kinds of 60_exceptions.md R87. -/
inductive ErrKind
  | invalidInput
  | tooLarge
  | invalidSymbol
  | illegalCommand
  deriving DecidableEq, Repr

/-- What EXEC answers (40_command_execution.md R58): an output sequence, an error with its index and
value, or the read of an unwritten input entry. -/
inductive Result
  | ok (out : List Byte)
  | err (kind : ErrKind) (index value : Byte)
  | unwritten
  deriving DecidableEq, Repr

/-- The BRG's answer on the bus to one host access: the word a read returns, the acceptance of a write,
or the bus error response (20_memory.md R34). -/
inductive Resp
  | data (w : Word)
  | written
  | busError
  deriving DecidableEq, Repr

/-- One turn of one agent (00_scope.md R7): a host access, a turn offered to the engine, or reset. -/
inductive Event
  | access (t : BusOp)
  | engine
  | reset
  deriving DecidableEq, Repr

/-- The whole machine. The fields down to `latchRsv` are R13's tuple, less the constant ID; the four
after it are the model's own. -/
structure State where
  /-- STATUS.BUSY (R18). -/
  busy        : Bool
  /-- STATUS.DONE (R18). -/
  done        : Bool
  /-- STATUS.ERR (R18). -/
  err         : Bool
  /-- STATUS.WBUSY (R18). -/
  wbusy       : Bool
  /-- STATUS.ERRCODE (R18, R87). -/
  errCode     : BitVec 3
  /-- INT_EN.IE (R19). -/
  intEn       : Bool
  /-- IN_LEN.LEN (R20). -/
  inLen       : BitVec 9
  /-- OUT_LEN.LEN (R21). -/
  outLen      : BitVec 9
  /-- ERR_INFO.INDEX (R22). -/
  errIndex    : Byte
  /-- ERR_INFO.VALUE (R22). -/
  errValue    : Byte
  /-- IN[0..255] with IN_W: an entry is listed exactly when IN_W holds for it (R23). -/
  inBuf       : Memory
  /-- OUT[0..255]: an entry is listed exactly when it has a defined value (R24). -/
  outBuf      : Memory
  /-- LATCH.OP (R25). -/
  latchOp     : BitVec 3
  /-- LATCH.NULLIN (R25). -/
  latchNullin : Bool
  /-- LATCH.RSV: CMD[31:5] was not 0 (R25). -/
  latchRsv    : Bool
  /-- The OPEN parameters (R6), arguments of the model: no step changes them. -/
  params      : Params
  /-- The coming turns of the three agents, oldest first (R7, R38; notes/assumptions/2.md). -/
  agenda      : List Event
  /-- The answer to the last host access that reached the BRG (notes/assumptions/6.md). -/
  resp        : Option Resp
  /-- How many free values have been drawn (notes/assumptions/7.md). -/
  draws       : Nat
  deriving DecidableEq, Repr

/-- The state right after reset (10_state.md R28). LATCH is UNSPECIFIED there: 0 is a DESIGN CHOICE
(notes/assumptions/5.md), unsafe in form only, since no rule reads LATCH while BUSY = 0. -/
def State.reset : State where
  busy := false
  done := false
  err := false
  wbusy := false
  errCode := 0#3
  intEn := false
  inLen := 0#9
  outLen := 0#9
  errIndex := 0#8
  errValue := 0#8
  inBuf := []
  outBuf := []
  latchOp := 0#3
  latchNullin := false
  latchRsv := false
  params := Params.default
  agenda := []
  resp := none
  draws := 0

end Sys2Proof.Machine
end

