-- ==== Sys2Proof/Machine/Flags.lean ====
section
/-! DEFINITION. The flags: the STATUS word, its clearing bits, the interrupt line and the numbers of the
error kinds (10_state.md R18, R26, R27; 60_exceptions.md R87). -/

namespace Sys2Proof.Machine

/-- STATUS as a read returns it: WBUSY bit 8, ERRCODE bits 6:4, ERR bit 2, DONE bit 1, BUSY bit 0, every
other bit 0 (R18). -/
def State.statusWord (s : State) : Word :=
  (BitVec.ofBool s.wbusy).setWidth 32 <<< 8 ||| s.errCode.setWidth 32 <<< 4
    ||| (BitVec.ofBool s.err).setWidth 32 <<< 2 ||| (BitVec.ofBool s.done).setWidth 32 <<< 1
    ||| (BitVec.ofBool s.busy).setWidth 32

/-- ERR_INFO as a read returns it: VALUE bits 15:8, INDEX bits 7:0 (R22). -/
def State.errInfoWord (s : State) : Word :=
  s.errValue.setWidth 32 <<< 8 ||| s.errIndex.setWidth 32

/-- The level output IRQ = DONE and IE (R26, R92). -/
def State.irq (s : State) : Bool := s.done && s.intEn

/-- A write to STATUS: bit 1 clears DONE, bit 8 clears WBUSY, every other bit is ignored (R18, R54). -/
def State.clearStatus (v : Word) (s : State) : State :=
  { s with done := s.done && !v.getLsbD 1, wbusy := s.wbusy && !v.getLsbD 8 }

/-- A write to INT_EN keeps bit 0 (R19). -/
def State.setIntEn (v : Word) (s : State) : State :=
  { s with intEn := v.getLsbD 0 }

/-- A write ignored because BUSY = 1 changes only WBUSY (40_command_execution.md R55). -/
def State.ignoreWrite (s : State) : State := { s with wbusy := true }

/-- The error codes of R87. -/
def ErrKind.code : ErrKind → BitVec 3
  | .invalidInput => 1#3
  | .tooLarge => 2#3
  | .invalidSymbol => 3#3
  | .illegalCommand => 4#3

end Sys2Proof.Machine
end

