-- ==== Sys2Proof/Machine/Ops.lean ====
section
/-! DEFINITION. The named operations over the buffers and the registers: reading and writing an entry,
answering the bus, START, publishing a result, publishing an error (the BRG's only exception entry) and
reset. -/

namespace Sys2Proof.Machine

/-! ### Buffers -/

/-- The value entry `a` holds, if it holds one. -/
def Memory.read (m : Memory) (a : Nat) : Option Byte :=
  match m with
  | [] => none
  | (k, b) :: rest => if k = a then some b else Memory.read rest a

/-- Writes entry `a`, keeping the list strictly rising. -/
def Memory.write (m : Memory) (a : Nat) (v : Byte) : Memory :=
  match m with
  | [] => [(a, v)]
  | (k, b) :: rest =>
    if a < k then (a, v) :: (k, b) :: rest
    else if a = k then (a, v) :: rest
    else (k, b) :: Memory.write rest a v

/-- The entries `start, start + 1, …` holding the bytes of a sequence, and no other entry. -/
def Memory.fill (start : Nat) (bytes : List Byte) : Memory :=
  match bytes with
  | [] => []
  | b :: rest => (start, b) :: Memory.fill (start + 1) rest

/-- Every listed entry is at `low` or above and below 256, strictly rising. -/
def Memory.wfFrom (low : Nat) (m : Memory) : Bool :=
  match m with
  | [] => true
  | (k, _) :: rest => decide (low ≤ k) && decide (k < Config.inCap) && Memory.wfFrom (k + 1) rest

/-- The canonical form of a buffer of 256 entries (10_state.md R23, R24). An entry not listed holds no
value, so no cell can equal what an unlisted entry reads as. -/
def Memory.wf (m : Memory) : Bool := Memory.wfFrom 0 m

/-! ### The bus -/

/-- Answers the host access being performed. -/
def State.respond (r : Resp) (s : State) : State := { s with resp := some r }

/-- Answers a read of an entry that holds no value: a free byte, fresh at each read
(R11, 40_command_execution.md R53; notes/assumptions/7.md). -/
def State.respondFree (s : State) : State :=
  { s with resp := some (.data ((Config.freeByte s.draws).setWidth 32)), draws := s.draws + 1 }

/-- A write to an IN entry while BUSY = 0: bits 7:0 are kept, and IN_W is set (10_state.md R23). -/
def State.writeInput (i : Index) (v : Word) (s : State) : State :=
  { s with inBuf := s.inBuf.write i.toNat (v.setWidth 8) }

/-- A write to IN_LEN while BUSY = 0: bits 8:0 are kept (10_state.md R20). -/
def State.setInLen (v : Word) (s : State) : State :=
  { s with inLen := v.setWidth 9 }

/-! ### Starting an operation -/

/-- START (40_command_execution.md R56): the fields of the word are latched, BUSY is set, the status,
the error context and the whole output are cleared. -/
def State.start (op : BitVec 3) (nullin rsv : Bool) (s : State) : State :=
  { s with
    latchOp := op, latchNullin := nullin, latchRsv := rsv
    busy := true, done := false, err := false, errCode := 0#3, wbusy := false
    outLen := 0#9, errIndex := 0#8, errValue := 0#8, outBuf := [] }

/-- A CMD write with bit 0 set: a START, or, while BUSY = 1, an ignored write (R55, R56, R57). -/
def State.issue (op : BitVec 3) (nullin rsv : Bool) (s : State) : State :=
  if s.busy then s.ignoreWrite else s.start op nullin rsv

/-- A CMD write with bit 0 set, with its answer on the bus. -/
def State.command (op : BitVec 3) (nullin rsv : Bool) (s : State) : State :=
  (s.issue op nullin rsv).respond .written

/-! ### Completing an operation -/

/-- COMMIT_OK (R60): the whole output sequence and its length are published. -/
def State.commitOk (out : List Byte) (s : State) : State :=
  { s with
    outBuf := Memory.fill 0 out, outLen := BitVec.ofNat 9 out.length
    err := false, errCode := 0#3, errIndex := 0#8, errValue := 0#8
    busy := false, done := true }

/-- COMMIT_ERR (R61), the BRG's only exception entry (60_exceptions.md R90): nothing of a result is
published, and the error's code, index and value are recorded. Acknowledging it is the W1C write
`State.clearStatus` or the next `State.start` (R91). -/
def State.commitErr (kind : ErrKind) (index value : Byte) (s : State) : State :=
  { s with
    outBuf := [], outLen := 0#9
    err := true, errCode := kind.code, errIndex := index, errValue := value
    busy := false, done := true }

/-! ### Reset and turns -/

/-- Reset (70_reset_and_hazards.md R101): every register at its reset value, the running operation
aborted. The parameters, the turns still to come and the count of draws are not the BRG's registers. -/
def State.applyReset (s : State) : State :=
  { State.reset with params := s.params, agenda := s.agenda, draws := s.draws }

/-- The turns still to come. -/
def State.withAgenda (agenda : List Event) (s : State) : State := { s with agenda := agenda }

end Sys2Proof.Machine
end

