-- ==== Sys2Proof/Machine/Operands.lean ====
section
/-! DEFINITION. The operand forms: the places of the address map, and the input of an operation
(20_memory.md R31; 30_encoding.md R50). -/

namespace Sys2Proof.Machine

/-- A place of the window (R31). -/
inductive Loc
  | id
  | cmd
  | status
  | intEn
  | inLen
  | outLen
  | errInfo
  | inEntry (i : Index)
  | outEntry (i : Index)
  | reserved (off : Offset)
  deriving DecidableEq, Repr

/-- The place at an aligned offset: entry `i` of IN at `0x400 + 4*i`, of OUT at `0x800 + 4*i` (R31). -/
def locate (off : Offset) : Loc :=
  if off.toNat < 0x400 then
    if off = 0x000#12 then .id
    else if off = 0x004#12 then .cmd
    else if off = 0x008#12 then .status
    else if off = 0x00C#12 then .intEn
    else if off = 0x010#12 then .inLen
    else if off = 0x014#12 then .outLen
    else if off = 0x018#12 then .errInfo
    else .reserved off
  else if off.toNat < 0x800 then .inEntry (BitVec.ofNat 8 ((off.toNat - 0x400) / 4))
  else if off.toNat < 0xC00 then .outEntry (BitVec.ofNat 8 ((off.toNat - 0x800) / 4))
  else .reserved off

/-- The offset of a place (R31). -/
def Loc.offset : Loc → Offset
  | .id => 0x000#12
  | .cmd => 0x004#12
  | .status => 0x008#12
  | .intEn => 0x00C#12
  | .inLen => 0x010#12
  | .outLen => 0x014#12
  | .errInfo => 0x018#12
  | .inEntry i => BitVec.ofNat 12 (0x400 + 4 * i.toNat)
  | .outEntry i => BitVec.ofNat 12 (0x800 + 4 * i.toNat)
  | .reserved off => off

/-- The only accesses the BRG performs: 32 bits wide at a multiple of 4 (20_memory.md R33, R34). -/
def accessOk (off : Offset) (width : Nat) : Bool :=
  width == Config.busWidth && off.toNat % 4 == 0

/-- `ceil_div` (00_scope.md R9), for `b > 0`. -/
def ceilDiv (a b : Nat) : Nat := (a + b - 1) / b

/-- The entries `start .. start + n - 1` of a buffer, if every one of them holds a value. -/
def readEntries (m : Memory) (start n : Nat) : Option (List Byte) :=
  match n with
  | 0 => some []
  | n + 1 =>
    match m.read start, readEntries m (start + 1) n with
    | some b, some rest => some (b :: rest)
    | _, _ => none

/-- The input `IN[0..len)` read through INRD (40_command_execution.md R59). With an entry not written
since reset among them there is none, and the operation takes UnwrittenInput
(70_reset_and_hazards.md R103). -/
def readInput (inp : Memory) (len : Nat) : Option (List Byte) := readEntries inp 0 len

/-- Runs an operation's last part on its input, or takes UnwrittenInput (R103). -/
def withInput (inp : Memory) (len : Nat) (f : List Byte → Result) : Result :=
  match readInput inp len with
  | some b => f b
  | none => .unwritten

/-- The first entry, from index `start` upward, that `bad` holds of, with its index
(60_exceptions.md R88: the lowest offending index is reported). -/
def firstOffending (bad : Byte → Bool) (start : Nat) (entries : List Byte) : Option (Nat × Byte) :=
  match entries with
  | [] => none
  | e :: rest => if bad e then some (start, e) else firstOffending bad (start + 1) rest

/-- Raises InvalidSymbol for the first offending entry, with its index and value, or goes on
(60_exceptions.md R87, R88). -/
def orInvalidSymbol (bad : Byte → Bool) (entries : List Byte) (k : Result) : Result :=
  match firstOffending bad 0 entries with
  | some (i, e) => .err .invalidSymbol (BitVec.ofNat 8 i) e
  | none => k

end Sys2Proof.Machine
end

