-- ==== Sys2Proof/Machine/Access.lean ====
section
/-! DEFINITION. The host's two access instructions, bus read and bus write
(40_command_execution.md R53..R55). -/

namespace Sys2Proof.Machine

/-- BUS_READ at a place (R53): the word, or none where the entry holds no value. -/
def State.readWord (s : State) : Loc → Option Word
  | .id => some Config.idValue
  | .cmd => some 0#32
  | .status => some s.statusWord
  | .intEn => some ((BitVec.ofBool s.intEn).setWidth 32)
  | .inLen => some (s.inLen.setWidth 32)
  | .outLen => some (s.outLen.setWidth 32)
  | .errInfo => some s.errInfoWord
  | .inEntry i => (s.inBuf.read i.toNat).map fun b => b.setWidth 32
  | .outEntry i => (s.outBuf.read i.toNat).map fun b => b.setWidth 32
  | .reserved _ => some 0#32

/-- A write of `v` to CMD (R54, 10_state.md R17). -/
def State.writeCmd (v : Word) (s : State) : State :=
  if cmdStart v = false then s else s.issue (cmdOp v) (cmdNullin v) (cmdRsv v != 0#27)

/-- BUS_WRITE at a place (R54). While BUSY = 1 a write to IN_LEN or IN[] is ignored and sets WBUSY (R55);
read-only and reserved places ignore every write. -/
def State.writeWord (v : Word) (s : State) : Loc → State
  | .id => s
  | .cmd => s.writeCmd v
  | .status => s.clearStatus v
  | .intEn => s.setIntEn v
  | .inLen => if s.busy then s.ignoreWrite else s.setInLen v
  | .outLen => s
  | .errInfo => s
  | .inEntry i => if s.busy then s.ignoreWrite else s.writeInput i v
  | .outEntry _ => s
  | .reserved _ => s

/-- `rd` (R53). -/
def execRd (off : Offset) (width : Nat) (s : State) : Host.Outcome State Fault Refusal :=
  if accessOk off width then
    match s.readWord (locate off) with
    | some w => .next (s.respond (.data w))
    | none => .next s.respondFree
  else .next (s.respond .busError)

/-- `wr` (R54). -/
def execWr (off : Offset) (width : Nat) (v : Word) (s : State) : Host.Outcome State Fault Refusal :=
  if accessOk off width then .next ((s.writeWord v (locate off)).respond .written)
  else .next (s.respond .busError)

end Sys2Proof.Machine
end

