-- ==== Sys2Proof/Machine/CommandPort.lean ====
section
/-! DEFINITION. The CMD words that are no operation: the illegal ones and the no-operation
(30_encoding.md R45, R48). -/

namespace Sys2Proof.Machine

/-- `illegal.op5`: accepted as a START; its completion fails with IllegalCommand (R48, R56). -/
def execIllegalOp5 (nullin : Bool) (s : State) : Host.Outcome State Fault Refusal :=
  .next (s.command 0b101#3 nullin false)

/-- `illegal.op6` (R48, R56). -/
def execIllegalOp6 (nullin : Bool) (s : State) : Host.Outcome State Fault Refusal :=
  .next (s.command 0b110#3 nullin false)

/-- `illegal.op7` (R48, R56). -/
def execIllegalOp7 (nullin : Bool) (s : State) : Host.Outcome State Fault Refusal :=
  .next (s.command 0b111#3 nullin false)

/-- `illegal.rsv`: LATCH.RSV records that the reserved bits were not all zero (R48, R56). -/
def execIllegalRsv (op : BitVec 3) (nullin : Bool) (rsv : BitVec 27) (s : State) :
    Host.Outcome State Fault Refusal :=
  .next (s.command op nullin (rsv != 0#27))

/-- `nop`: a CMD write with START = 0 changes no state, whatever its other bits and whatever BUSY (R45). -/
def execNop (_rest : BitVec 31) (s : State) : Host.Outcome State Fault Refusal :=
  .next (s.respond .written)

end Sys2Proof.Machine
end

