-- ==== Sys2Proof/Machine/Alphabet.lean ====
section
/-! DEFINITION. The alphabet mapping (44_alphabet.md R81..R86). -/

namespace Sys2Proof.Machine

/-- The codes of `abcdefghijkmnpqrstuvwxyz23456789`, values 0..31 in order (R81). -/
def alphabet : List Byte :=
  [0x61#8, 0x62#8, 0x63#8, 0x64#8, 0x65#8, 0x66#8, 0x67#8, 0x68#8,
   0x69#8, 0x6A#8, 0x6B#8, 0x6D#8, 0x6E#8, 0x70#8, 0x71#8, 0x72#8,
   0x73#8, 0x74#8, 0x75#8, 0x76#8, 0x77#8, 0x78#8, 0x79#8, 0x7A#8,
   0x32#8, 0x33#8, 0x34#8, 0x35#8, 0x36#8, 0x37#8, 0x38#8, 0x39#8]

/-- `SYM(v)` (R82): array indexing, total on 0..31. -/
def sym (v : Group) : Byte := alphabet.getD v.toNat 0#8

/-- The position of `c` in a list of codes, counted from `start`. -/
def findCode (c : Byte) (start : Nat) (codes : List Byte) : Option Group :=
  match codes with
  | [] => none
  | k :: rest => if k = c then some (BitVec.ofNat 5 start) else findCode c (start + 1) rest

/-- `INDEX(c)` (R83): the value whose code is `c`, or none; case-sensitive (R84). -/
def index (c : Byte) : Option Group := findCode c 0 alphabet

/-- `ALL_WS(c)` (43_decode.md R77): every entry is in WS_SET. -/
def allWs (ws : List Byte) (c : List Byte) : Bool := c.all fun x => ws.contains x

end Sys2Proof.Machine
end

