-- ==== Sys2Proof/Machine/BigEndian.lean ====
section
/-! DEFINITION. The big-endian serializer and deserializer, and the command `be.min`
(41_bigendian.md R64..R67). -/

namespace Sys2Proof.Machine

/-- `fromBE` (R64): folds left to right, shifting by 8 and OR-ing in the next byte. -/
def fromBE (b : List Byte) : Nat := b.foldl (fun acc x => acc <<< 8 ||| x.toNat) 0

/-- The bytes of `v`, least significant first, until it is zero; `fuel` bounds their number. -/
def lowBytes (fuel v : Nat) : List Byte :=
  match fuel with
  | 0 => []
  | fuel + 1 => if v = 0 then [] else BitVec.ofNat 8 v :: lowBytes fuel (v >>> 8)

/-- `toBE` (R65): the low bytes until the value is zero, reversed. A value has no more bytes than bits, so
the fuel never ends the loop. -/
def toBE (v : Nat) : List Byte := (lowBytes (v.log2 + 1) v).reverse

/-- `zeros(n)` (00_scope.md R10). -/
def zeros (n : Nat) : List Byte := List.replicate n 0#8

/-- `pad(n, m)` (R66 law 9): `m` left-padded with zero bytes to `n` bytes. -/
def padTo (n : Nat) (m : List Byte) : List Byte := zeros (n - m.length) ++ m

/-- `strip(b)` (R66 law 6): `b` with its leading zero bytes removed. -/
def strip (b : List Byte) : List Byte := b.dropWhile (fun x => x == 0#8)

/-- BE_MIN_F (R67). -/
def beMinResult (nullin : Bool) (len : Nat) (inp : Memory) : Result :=
  if nullin then .err .invalidInput 0#8 0#8
  else if len > Config.inCap then .err .tooLarge 0#8 0#8
  else withInput inp len fun b => .ok (toBE (fromBE b))

/-- `be.min`: START with OP = 100 (R67, R56). -/
def execBeMin (nullin : Bool) (s : State) : Host.Outcome State Fault Refusal :=
  .next (s.command 0b100#3 nullin false)

end Sys2Proof.Machine
end

