-- ==== Sys2Proof/Machine/Decoder.lean ====
section
/-! DEFINITION. The decoder, 5-bit groups to bytes, and the commands `dec.raw` and `dec.sym`
(43_decode.md R74..R80). -/

namespace Sys2Proof.Machine

/-- `L(k)`, the exact-fit byte length of `k` groups (R74). -/
def fitLength (k : Nat) : Nat := 5 * k / 8

/-- `r(k)`, the bits beyond the exact fit (R74). -/
def fitRest (k : Nat) : Nat := 5 * k % 8

/-- The pivot of a group sequence (R75): shift by 5, OR in the next value, left to right. -/
def fromGroups (g : List Group) : Nat := g.foldl (fun acc x => acc <<< 5 ||| x.toNat) 0

/-- `DEC_BYTES(g)` (R75): the minimal bytes as they are when they reach the exact fit, else left-padded
to it. -/
def decBytes (g : List Group) : List Byte :=
  let fit := fitLength g.length
  let m := toBE (fromGroups g)
  if m.length ≥ fit then m else zeros (fit - m.length) ++ m

/-- A raw entry that is no group value (R78). -/
def notGroup (e : Byte) : Bool := decide (32 ≤ e.toNat)

/-- A code that is not in the alphabet (R79, 44_alphabet.md R83). -/
def notSymbol (c : Byte) : Bool := (index c).isNone

/-- DECODE_RAW_F (R78). -/
def decRawResult (nullin : Bool) (len : Nat) (inp : Memory) : Result :=
  if nullin then .err .invalidInput 0#8 0#8
  else if len = 0 then .err .invalidInput 0#8 0#8
  else if len > Config.maxSymbols then .err .tooLarge 0#8 0#8
  else withInput inp len fun g =>
    orInvalidSymbol notGroup g (.ok (decBytes (g.map fun e => e.setWidth 5)))

/-- DECODE_SYM_F (R79). The length check against IN_CAP comes before the whitespace check, the one against
MAX_SYMBOLS after it. -/
def decSymResult (ws : List Byte) (nullin : Bool) (len : Nat) (inp : Memory) : Result :=
  if nullin then .err .invalidInput 0#8 0#8
  else if len = 0 then .err .invalidInput 0#8 0#8
  else if len > Config.inCap then .err .tooLarge 0#8 0#8
  else withInput inp len fun c =>
    if allWs ws c then .err .invalidInput 0#8 0#8
    else if len > Config.maxSymbols then .err .tooLarge 0#8 0#8
    else orInvalidSymbol notSymbol c (.ok (decBytes (c.filterMap index)))

/-- `dec.raw`: START with OP = 001 (R78, R56). -/
def execDecRaw (nullin : Bool) (s : State) : Host.Outcome State Fault Refusal :=
  .next (s.command 0b001#3 nullin false)

/-- `dec.sym`: START with OP = 011 (R79, R56). -/
def execDecSym (nullin : Bool) (s : State) : Host.Outcome State Fault Refusal :=
  .next (s.command 0b011#3 nullin false)

end Sys2Proof.Machine
end

