-- ==== Sys2Proof/Machine/Encoder.lean ====
section
/-! DEFINITION. The encoder, bytes to 5-bit groups, and the commands `enc.raw` and `enc.sym`
(42_encode.md R68..R73). -/

namespace Sys2Proof.Machine

/-- `G(n)`, the group count of `n` bytes (R68). -/
def groupCount (n : Nat) : Nat := ceilDiv (8 * n) 5

/-- `p(n)`, the pad count (R68). -/
def padCount (n : Nat) : Nat := 5 * groupCount n - 8 * n

/-- The loop of R69: `j` positions are still to be written, right to left, each with the low five bits of
`v`. Once `v` is zero the remaining positions hold 0, as the buffer did. -/
def fillGroups (j v : Nat) (done : List Group) : List Group :=
  match j with
  | 0 => done
  | j + 1 => fillGroups j (v >>> 5) (BitVec.ofNat 5 v :: done)

/-- `ENC_GROUPS(b)` (R69). -/
def encGroups (b : List Byte) : List Group := fillGroups (groupCount b.length) (fromBE b) []

/-- The checks of R71 and R72, which are the same, and the form each gives its groups. -/
def encodeResult (form : Group → Byte) (nullin : Bool) (len : Nat) (inp : Memory) : Result :=
  if nullin then .err .invalidInput 0#8 0#8
  else if len = 0 then .err .invalidInput 0#8 0#8
  else if groupCount len > Config.maxGroups then .err .tooLarge 0#8 0#8
  else withInput inp len fun b => .ok ((encGroups b).map form)

/-- ENCODE_RAW_F (R71): each group zero-extended to a byte. -/
def encRawResult (nullin : Bool) (len : Nat) (inp : Memory) : Result :=
  encodeResult (fun g => g.setWidth 8) nullin len inp

/-- ENCODE_SYM_F (R72): each group as its alphabet code. -/
def encSymResult (nullin : Bool) (len : Nat) (inp : Memory) : Result :=
  encodeResult sym nullin len inp

/-- `enc.raw`: START with OP = 000 (R71, R56). -/
def execEncRaw (nullin : Bool) (s : State) : Host.Outcome State Fault Refusal :=
  .next (s.command 0b000#3 nullin false)

/-- `enc.sym`: START with OP = 010 (R72, R56). -/
def execEncSym (nullin : Bool) (s : State) : Host.Outcome State Fault Refusal :=
  .next (s.command 0b010#3 nullin false)

end Sys2Proof.Machine
end

