-- ==== Sys2Proof/Machine/Engine.lean ====
section
/-! DEFINITION. The engine: EXEC and its one step, COMPLETE (40_command_execution.md R58, R59). -/

namespace Sys2Proof.Machine

/-- EXEC (R59), on the latched command, the length, the written entries and WS_SET. IllegalCommand is
checked before every other error (60_exceptions.md R88). -/
def opResult (op : BitVec 3) (nullin rsv : Bool) (ws : List Byte) (len : Nat) (inp : Memory) : Result :=
  if rsv || decide (5 ≤ op.toNat) then .err .illegalCommand 0#8 0#8
  else if op = 0b000#3 then encRawResult nullin len inp
  else if op = 0b001#3 then decRawResult nullin len inp
  else if op = 0b010#3 then encSymResult nullin len inp
  else if op = 0b011#3 then decSymResult ws nullin len inp
  else beMinResult nullin len inp

/-- EXEC on the operands the state holds. -/
def State.result (s : State) : Result :=
  opResult s.latchOp s.latchNullin s.latchRsv s.params.wsSet s.inLen.toNat s.inBuf

/-- COMPLETE (R58): publishes the whole result or the error in one step, or takes UnwrittenInput
(70_reset_and_hazards.md R103). -/
def complete (s : State) : Host.Outcome State Fault Refusal :=
  match s.result with
  | .ok out => .next (s.commitOk out)
  | .err kind index value => .next (s.commitErr kind index value)
  | .unwritten => .fault .unwrittenInput

/-- A turn of the engine: COMPLETE is enabled exactly when BUSY = 1 (R58); an idle engine does nothing
(60_exceptions.md R100). -/
def engineTurn (s : State) : Host.Outcome State Fault Refusal :=
  if s.busy then complete s else .next s

end Sys2Proof.Machine
end

