-- ==== Sys2Proof/Machine/Dispatch.lean ====
section
/-! DEFINITION. One arm per constructor of Instr, each one call of the instruction's meaning. -/

namespace Sys2Proof.Machine

/-- What instruction `i` does in state `s`. A command row does what the 32-bit write of its word to CMD
does; the engine completes the operation in a turn of its own (40_command_execution.md R56, R58). -/
def exec (i : Instr) (s : State) : Host.Outcome State Fault Refusal :=
  match i with
  | .encRaw nullin => Sys2Proof.Machine.execEncRaw nullin s
  | .decRaw nullin => Sys2Proof.Machine.execDecRaw nullin s
  | .encSym nullin => Sys2Proof.Machine.execEncSym nullin s
  | .decSym nullin => Sys2Proof.Machine.execDecSym nullin s
  | .beMin nullin => Sys2Proof.Machine.execBeMin nullin s
  | .illegalOp5 nullin => Sys2Proof.Machine.execIllegalOp5 nullin s
  | .illegalOp6 nullin => Sys2Proof.Machine.execIllegalOp6 nullin s
  | .illegalOp7 nullin => Sys2Proof.Machine.execIllegalOp7 nullin s
  | .illegalRsv op nullin rsv => Sys2Proof.Machine.execIllegalRsv op nullin rsv s
  | .nop rest => Sys2Proof.Machine.execNop rest s
  | .rd off width => Sys2Proof.Machine.execRd off width s
  | .wr off width v => Sys2Proof.Machine.execWr off width v s

end Sys2Proof.Machine
end

