-- ==== Sys2Proof/Machine/Step.lean ====
section
/-! DEFINITION. One step of the machine: the oldest turn of the agenda is taken (00_scope.md R7). -/

namespace Sys2Proof.Machine

/-- One turn. A host access that reaches the window is executed; one outside it does not concern the BRG
(20_memory.md R30). When no turn is listed the engine has it, so a running operation ends: the weak
fairness of 70_reset_and_hazards.md R109, R110. An idle BRG stays as it is (60_exceptions.md R100).
DESIGN CHOICE (notes/assumptions/2.md). -/
def step (s : State) : Host.Outcome State Fault Refusal :=
  match s.agenda with
  | [] => engineTurn s
  | .engine :: rest => engineTurn (s.withAgenda rest)
  | .reset :: rest => .next (s.withAgenda rest).applyReset
  | .access t :: rest =>
    match decode s.params.basePage t with
    | .instr i => exec i (s.withAgenda rest)
    | .rejected _ => .next (s.withAgenda rest)

/-- `s` with the 32-bit write of word `w` to CMD as its next turn, so that the next step executes it.
The BRG loads no program and fetches nothing (20_memory.md R41): this stands for the host's access
(notes/assumptions/1.md). A word has 32 bits, so a table row's bits above `nbits` are zero as they stand. -/
def State.withFetchWord (s : State) (_nbits w : Nat) : State :=
  s.withAgenda (.access (cmdWrite s.params.basePage (BitVec.ofNat 32 w)) :: s.agenda)

end Sys2Proof.Machine
end

