-- ==== Sys2Proof/Machine/Streaming.lean ====
section
/-! DEFINITION. The streaming datapaths the spec says are equivalent to the encoder and the decoder
(42_encode.md R70, 43_decode.md R76). They are not architectural (10_state.md R25): no step calls them. -/

namespace Sys2Proof.Machine

/-- Emits a group while at least five bits are held (R70): `acc` holds `count` valid bits, at most 12, so
at most two groups come out. -/
def emitGroups (fuel acc count : Nat) : List Group :=
  match fuel with
  | 0 => []
  | fuel + 1 =>
    if count < 5 then [] else BitVec.ofNat 5 (acc >>> (count - 5)) :: emitGroups fuel acc (count - 5)

/-- One byte into the encoder's accumulator, for the count held before it, then the bytes after it (R70).
The accumulator keeps only the bits still held. -/
def encStreamFrom (acc count : Nat) (b : List Byte) : List Group :=
  match b with
  | [] => []
  | x :: rest =>
    let acc' := acc <<< 8 ||| x.toNat
    let count' := count + 8
    emitGroups 2 acc' count' ++ encStreamFrom (acc' % 2 ^ (count' % 5)) (count' % 5) rest

/-- The encoder's bit accumulator (R70): it starts at 0, holding `p(n)` bits. -/
def encStream (b : List Byte) : List Group := encStreamFrom 0 (padCount b.length) b

/-- Groups into the decoder's accumulator, five bits at a time, a byte out whenever eight are held
(R76). -/
def decStreamFrom (acc count : Nat) (g : List Group) : List Byte :=
  match g with
  | [] => []
  | x :: rest =>
    let acc' := acc <<< 5 ||| x.toNat
    let count' := count + 5
    if 8 ≤ count' then
      BitVec.ofNat 8 (acc' >>> (count' - 8)) :: decStreamFrom (acc' % 2 ^ (count' - 8)) (count' - 8) rest
    else decStreamFrom acc' count' rest

/-- The decoder's bit accumulator (R76): `8 - r(k)` zero bits are put before the group string when
`r(k)` is not 0, so that its first byte is the overflow byte `H`, which is emitted only when not 0.The
zero bits are the model's own form of R76. DEDUCED (notes/assumptions/12.md). -/
def decStream (g : List Group) : List Byte :=
  if fitRest g.length = 0 then decStreamFrom 0 0 g
  else
    match decStreamFrom 0 (8 - fitRest g.length) g with
    | [] => []
    | h :: rest => if h = 0#8 then rest else h :: rest

end Sys2Proof.Machine
end

