-- ==== Sys2Proof/Safety.lean ====
section
/-! DEFINITION. What the rules promise of every state, and what a host may observe of an operation. -/

namespace Sys2Proof.Machine

/-- The legal combinations of STATUS (10_state.md R18): while BUSY the rest is 0, ERR goes with a code
that is not 0, and the codes 5..7 are never produced. -/
def State.StatusLegal (s : State) : Prop :=
  (s.busy = true → s.done = false ∧ s.err = false ∧ s.errCode = 0#3) ∧
  (s.err = true ↔ s.errCode ≠ 0#3) ∧ s.errCode.toNat ≤ 4

/-- OUT has a value at exactly the entries below OUT_LEN, and OUT_LEN is 0 while BUSY and after an error
(10_state.md R21, R24). -/
def State.OutputLegal (s : State) : Prop :=
  (s.busy = true ∨ s.err = true → s.outLen = 0#9) ∧ s.outLen.toNat ≤ Config.outCap ∧
  ∀ i : Index, (s.outBuf.read i.toNat).isSome = true ↔ i.toNat < s.outLen.toNat

/-- ERR_INFO is 0 unless the error is InvalidSymbol, whose index is below 64 (10_state.md R22,
60_exceptions.md R87). -/
def State.ErrInfoLegal (s : State) : Prop :=
  (s.errCode ≠ 3#3 → s.errIndex = 0#8 ∧ s.errValue = 0#8) ∧ s.errIndex.toNat < 64

/-- Both buffers are in canonical form. -/
def State.MemoryLegal (s : State) : Prop := s.inBuf.wf = true ∧ s.outBuf.wf = true

/-- The invariant of the machine. -/
def State.Inv (s : State) : Prop :=
  s.StatusLegal ∧ s.OutputLegal ∧ s.ErrInfoLegal ∧ s.MemoryLegal

/-- WS_SET does not meet the alphabet (93_implementation_defined.md I2). -/
def ParamsLegal (p : Params) : Prop := ∀ c ∈ p.wsSet, c ∉ alphabet

/-- Every entry the operation would read has been written since reset (70_reset_and_hazards.md R103):
the host's duty, as a condition on the operands. -/
def State.InputWritten (s : State) : Prop :=
  ∀ i, i < s.inLen.toNat → (s.inBuf.read i).isSome = true

/-- The output entries that have a defined value, in order: `OUT[0..OUT_LEN)`. -/
def State.output (s : State) : Option (List Byte) := readEntries s.outBuf 0 s.outLen.toNat

/-- The observation of an ended operation (70_reset_and_hazards.md R110). -/
structure Observation where
  err     : Bool
  errCode : BitVec 3
  index   : Byte
  value   : Byte
  outLen  : BitVec 9
  output  : Option (List Byte)
  deriving DecidableEq, Repr

/-- The tuple of R110. -/
def State.observe (s : State) : Observation where
  err := s.err
  errCode := s.errCode
  index := s.errIndex
  value := s.errValue
  outLen := s.outLen
  output := s.output

/-! ### Positional notation

The numbers the codec's laws speak of, written without shifts or masks (41_bigendian.md R64, 42_encode.md
R73 law 3, 43_decode.md R80 law 3). -/

/-- The number whose base-`b` digits are `ds`, the first the most significant. -/
def valueOf (b : Nat) (ds : List Nat) : Nat := ds.foldl (fun acc d => acc * b + d) 0

/-- The `n` base-`b` digits of `v`, the first the most significant. -/
def digitsOf (b n v : Nat) : List Nat := (List.range n).map fun j => v / b ^ (n - 1 - j) % b

/-- Digits as 8-bit entries. -/
def asBytes (ds : List Nat) : List Byte := ds.map fun d => BitVec.ofNat 8 d

/-- The pivot of a byte sequence. -/
def pivotOfBytes (b : List Byte) : Nat := valueOf 256 (b.map fun x => x.toNat)

/-- The pivot of a group sequence given as 8-bit entries. -/
def pivotOfGroups (g : List Byte) : Nat := valueOf 32 (g.map fun x => x.toNat)

/-- How many bytes the pivot `v` of `k` groups decodes to: the exact fit, and the overflow byte when the
pivot does not fit (43_decode.md R80 law 1). -/
def decodedLength (k v : Nat) : Nat := if v < 256 ^ (5 * k / 8) then 5 * k / 8 else 5 * k / 8 + 1

/-! ### Operations as a host sees them -/

/-- IN[0..LEN) is the sequence `b`, every entry of it written. -/
def State.HoldsInput (s : State) (b : List Byte) : Prop :=
  s.inLen.toNat = b.length ∧ ∀ i, i < b.length → s.inBuf.read i = b[i]?

/-- A completion with success: `out` is published whole (40_command_execution.md R60). -/
def State.Succeeded (s : State) (out : List Byte) : Prop :=
  s.busy = false ∧ s.done = true ∧ s.err = false ∧ s.errCode = 0#3 ∧ s.errIndex = 0#8 ∧ s.errValue = 0#8 ∧
  s.outLen.toNat = out.length ∧ ∀ j, s.outBuf.read j = out[j]?

/-- A completion with an error of code `code`: nothing is published (R61). -/
def State.Failed (s : State) (code : BitVec 3) (index value : Byte) : Prop :=
  s.busy = false ∧ s.done = true ∧ s.err = true ∧ s.errCode = code ∧ s.errIndex = index ∧
  s.errValue = value ∧ s.outLen = 0#9 ∧ ∀ j, s.outBuf.read j = none

/-- Instruction `i` starts an operation in `s`, and the engine's COMPLETE ends it in `u`. -/
def Performs (i : Instr) (s u : State) : Prop :=
  ∃ t, exec i s = .next t ∧ t.busy = true ∧ complete t = .next u

/-- The nine rows of the opcode table whose CMD word has START = 1 (30_encoding.md R46, R48). -/
def IsStartRow : Instr → Prop
  | .encRaw _ => True
  | .decRaw _ => True
  | .encSym _ => True
  | .decSym _ => True
  | .beMin _ => True
  | .illegalOp5 _ => True
  | .illegalOp6 _ => True
  | .illegalOp7 _ => True
  | .illegalRsv _ _ _ => True
  | .nop _ => False
  | .rd _ _ => False
  | .wr _ _ _ => False

/-- The rows whose word is illegal (R48). -/
def IsIllegalRow : Instr → Prop
  | .encRaw _ => False
  | .decRaw _ => False
  | .encSym _ => False
  | .decSym _ => False
  | .beMin _ => False
  | .illegalOp5 _ => True
  | .illegalOp6 _ => True
  | .illegalOp7 _ => True
  | .illegalRsv _ _ _ => True
  | .nop _ => False
  | .rd _ _ => False
  | .wr _ _ _ => False

/-- `i` answers the state R56 gives: the word's fields latched, BUSY set, the status, the error context,
OUT_LEN and every OUT entry cleared, and nothing else changed but the answer on the bus. -/
def Starts (s : State) (i : Instr) (op : BitVec 3) (nullin rsv : Bool) : Prop :=
  exec i s = .next { s with
    latchOp := op, latchNullin := nullin, latchRsv := rsv
    busy := true, done := false, err := false, errCode := 0#3, wbusy := false
    outLen := 0#9, errIndex := 0#8, errValue := 0#8, outBuf := []
    resp := some .written }

/-- `i` answers the state an ignored write leaves (R55): WBUSY set and nothing else changed. -/
def Ignored (s : State) (i : Instr) : Prop :=
  exec i s = .next { s with wbusy := true, resp := some .written }

/-- A 32-bit read at `off` answers `w` and changes nothing (20_memory.md R35). -/
def ReadsAs (s : State) (off : Offset) (w : Word) : Prop :=
  exec (.rd off 32) s = .next { s with resp := some (.data w) }

end Sys2Proof.Machine
end

