-- ==== Sys2Proof/Certificates/Slice0/Obligations.lean ====
section
/-! DEFINITION. The statements for the provers, from the spec's numbered rules. Where a rule says what an
access returns, the answer stands in the model's field `resp` (notes/assumptions/6.md); a free byte is
counted in the model's field `draws` (notes/assumptions/7.md), and no statement rests on its value. -/

open Sys2Proof Sys2Proof.Machine

/-! ### Encoding -/

/-- Words written out from R43's fields: the ten legal START words, the reserved OPs, a reserved bit, and
two no-operations. -/
def Obligations.SpecWordsDecode : Prop :=
  decodeTableWord 32 0x00000001 = some (.encRaw false) ∧
  decodeTableWord 32 0x00000011 = some (.encRaw true) ∧
  decodeTableWord 32 0x00000003 = some (.decRaw false) ∧
  decodeTableWord 32 0x00000013 = some (.decRaw true) ∧
  decodeTableWord 32 0x00000005 = some (.encSym false) ∧
  decodeTableWord 32 0x00000015 = some (.encSym true) ∧
  decodeTableWord 32 0x00000007 = some (.decSym false) ∧
  decodeTableWord 32 0x00000017 = some (.decSym true) ∧
  decodeTableWord 32 0x00000009 = some (.beMin false) ∧
  decodeTableWord 32 0x00000019 = some (.beMin true) ∧
  decodeTableWord 32 0x0000000B = some (.illegalOp5 false) ∧
  decodeTableWord 32 0x0000000D = some (.illegalOp6 false) ∧
  decodeTableWord 32 0x0000000F = some (.illegalOp7 false) ∧
  decodeTableWord 32 0x00000021 = some (.illegalRsv 0b000#3 false 1#27) ∧
  decodeTableWord 32 0x00000004 = some (.nop 2#31) ∧
  decodeTableWord 32 0xFFFFFFFE = some (.nop 0x7FFFFFFF#31)

/-- Every well-formed instruction, at every value of its fields and in every window, decodes from its own
host access. -/
def Obligations.DecodeEncodeRoundTrip : Prop :=
  ∀ (page : Nat) (i : Instr), i.wellFormed = true → decode page (encode page i) = .instr i

/-- Every host access that reaches the window decodes to a well-formed instruction, and encodes back to
itself; one that does not reach it is rejected. -/
def Obligations.EncodeDecodeRoundTrip : Prop :=
  ∀ (page : Nat) (t : BusOp),
    (∀ i, decode page t = .instr i → i.wellFormed = true ∧ encode page i = t) ∧
    ((∃ i, decode page t = .instr i) ↔
      ∃ a width, (t = .read a width ∨ ∃ v, t = .write a width v) ∧
        4096 * page ≤ a ∧ a < 4096 * page + 4096)

/-- R49, on the numbers of the fields: NoOp, Illegal or one of the five operations with its NULLIN bit; the
legal START words are the ten listed; the decode is the one an accepted START applies, and the fields it
latches decode to the same at completion. -/
def Obligations.CmdWordsDecodeAsR49 : Prop :=
  ∀ w : Word,
    (w.toNat % 2 = 0 → ∃ r, decodeCmd w = .nop r) ∧
    (w.toNat % 2 = 1 → (w.toNat / 32 ≠ 0 ∨ w.toNat / 2 % 8 ≥ 5) → IsIllegalRow (decodeCmd w)) ∧
    (w.toNat % 2 = 1 → w.toNat / 32 = 0 →
      (w.toNat / 2 % 8 = 0 → decodeCmd w = .encRaw (decide (w.toNat / 16 % 2 = 1))) ∧
      (w.toNat / 2 % 8 = 1 → decodeCmd w = .decRaw (decide (w.toNat / 16 % 2 = 1))) ∧
      (w.toNat / 2 % 8 = 2 → decodeCmd w = .encSym (decide (w.toNat / 16 % 2 = 1))) ∧
      (w.toNat / 2 % 8 = 3 → decodeCmd w = .decSym (decide (w.toNat / 16 % 2 = 1))) ∧
      (w.toNat / 2 % 8 = 4 → decodeCmd w = .beMin (decide (w.toNat / 16 % 2 = 1)))) ∧
    (IsStartRow (decodeCmd w) ∧ ¬ IsIllegalRow (decodeCmd w) ↔
      w.toNat ∈ [0x01, 0x03, 0x05, 0x07, 0x09, 0x11, 0x13, 0x15, 0x17, 0x19]) ∧
    (∀ s : State, exec (.wr 0x004#12 32 w) s = exec (decodeCmd w) s) ∧
    ∀ s : State, s.busy = false → w.toNat % 2 = 1 →
      ∃ t, exec (decodeCmd w) s = .next t ∧ t.latchOp.toNat = w.toNat / 2 % 8 ∧
        t.latchNullin = decide (w.toNat / 16 % 2 = 1) ∧
        (IsIllegalRow (decodeCmd w) ↔ t.latchRsv = true ∨ 5 ≤ t.latchOp.toNat)

/-! ### Steps -/

/-- When the oldest turn is a host access that decodes, the step executes it with the turn taken off the
agenda, and adds nothing; an access outside the window changes nothing else. -/
def Obligations.StepExecutesTheDecodedAccess : Prop :=
  ∀ (s : State) (t : BusOp) (rest : List Event), s.agenda = .access t :: rest →
    (∀ i, decode s.params.basePage t = .instr i → step s = exec i { s with agenda := rest }) ∧
    (∀ e, decode s.params.basePage t = .rejected e → step s = .next { s with agenda := rest })

/-- The engine's turn, offered or left over when no turn is listed, is COMPLETE exactly when BUSY = 1, and
nothing otherwise (R58, R100); reset's turn is reset. The agenda is the model's: notes/assumptions/2.md. -/
def Obligations.EngineAndResetTurns : Prop :=
  ∀ (s : State) (rest : List Event),
    (s.agenda = .engine :: rest ∨ (s.agenda = [] ∧ rest = []) →
      (s.busy = true → step s = complete { s with agenda := rest }) ∧
      (s.busy = false → step s = .next { s with agenda := rest })) ∧
    (s.agenda = .reset :: rest → step s = .next { s with agenda := rest }.applyReset)

/-- The window of R30: an address reaches the BRG exactly when it lies in it, at offset `a - BASE`. -/
def Obligations.WindowOffsets : Prop :=
  ∀ (page a : Nat),
    (∀ off, windowOffset page a = some off ↔
      4096 * page ≤ a ∧ a < 4096 * page + 4096 ∧ off.toNat = a - 4096 * page) ∧
    (windowOffset page a = none ↔ a < 4096 * page ∨ 4096 * page + 4096 ≤ a)

/-! ### Reset -/

/-- What reset leaves, from whatever state, a running operation included, and in State.reset: the registers
as reads show them, no written input, no defined output, IRQ low. LATCH is UNSPECIFIED there and is not
named. -/
def Obligations.ResetLeavesR28 : Prop :=
  ∀ s u : State, u = s.applyReset ∨ u = State.reset →
    ReadsAs u 0x000#12 0x42524701#32 ∧ ReadsAs u 0x004#12 0#32 ∧ ReadsAs u 0x008#12 0#32 ∧
    ReadsAs u 0x00C#12 0#32 ∧ ReadsAs u 0x010#12 0#32 ∧ ReadsAs u 0x014#12 0#32 ∧
    ReadsAs u 0x018#12 0#32 ∧
    u.busy = false ∧ u.done = false ∧ u.err = false ∧ u.errCode = 0#3 ∧ u.wbusy = false ∧
    u.intEn = false ∧ u.inLen = 0#9 ∧ u.outLen = 0#9 ∧ u.errIndex = 0#8 ∧ u.errValue = 0#8 ∧
    (∀ i, u.inBuf.read i = none) ∧ (∀ i, u.outBuf.read i = none) ∧ u.irq = false

/-! ### Bus accesses -/

/-- BUS_READ of R53, every place: a read completes with the word R53 gives, a free byte where an entry has
no value, BusError when misaligned or not 32 bits; nothing else changes (`draws`, the model's count of free
values, goes up by one at a free byte: notes/assumptions/7.md). -/
def Obligations.ReadsFollowR53 : Prop :=
  ∀ s : State,
    (∀ (off : Offset) (width : Nat), width ≠ 32 ∨ off.toNat % 4 ≠ 0 →
      exec (.rd off width) s = .next { s with resp := some .busError }) ∧
    ReadsAs s 0x000#12 0x42524701#32 ∧ ReadsAs s 0x004#12 0#32 ∧
    (∃ w, ReadsAs s 0x008#12 w ∧ w.toNat =
      256 * s.wbusy.toNat + 16 * s.errCode.toNat + 4 * s.err.toNat + 2 * s.done.toNat + s.busy.toNat) ∧
    (∃ w, ReadsAs s 0x00C#12 w ∧ w.toNat = s.intEn.toNat) ∧
    (∃ w, ReadsAs s 0x010#12 w ∧ w.toNat = s.inLen.toNat) ∧
    (∃ w, ReadsAs s 0x014#12 w ∧ w.toNat = s.outLen.toNat) ∧
    (∃ w, ReadsAs s 0x018#12 w ∧ w.toNat = 256 * s.errValue.toNat + s.errIndex.toNat) ∧
    (∀ (i : Index) (b : Byte), s.inBuf.read i.toNat = some b →
      ReadsAs s (BitVec.ofNat 12 (0x400 + 4 * i.toNat)) (BitVec.ofNat 32 b.toNat)) ∧
    (∀ (i : Index) (b : Byte), s.outBuf.read i.toNat = some b →
      ReadsAs s (BitVec.ofNat 12 (0x800 + 4 * i.toNat)) (BitVec.ofNat 32 b.toNat)) ∧
    (∀ i : Index, s.inBuf.read i.toNat = none →
      exec (.rd (BitVec.ofNat 12 (0x400 + 4 * i.toNat)) 32) s = .next { s with
        resp := some (.data (BitVec.ofNat 32 (Config.freeByte s.draws).toNat)), draws := s.draws + 1 }) ∧
    (∀ i : Index, s.outBuf.read i.toNat = none →
      exec (.rd (BitVec.ofNat 12 (0x800 + 4 * i.toNat)) 32) s = .next { s with
        resp := some (.data (BitVec.ofNat 32 (Config.freeByte s.draws).toNat)), draws := s.draws + 1 }) ∧
    (∀ off : Offset, off.toNat % 4 = 0 →
      (0x01C ≤ off.toNat ∧ off.toNat < 0x400 ∨ 0xC00 ≤ off.toNat) → ReadsAs s off 0#32) ∧
    (s.OutputLegal → s.busy = true → ReadsAs s 0x014#12 0#32)

/-- BUS_WRITE of R54, every place: a write completes in the state R54 gives. The stored byte of a write to
IN is entry `i` of the offset `0x400 + 4*i`, and every other entry reads as before. -/
def Obligations.WritesFollowR54 : Prop :=
  ∀ (s : State) (v : Word),
    (∀ (off : Offset) (width : Nat), width ≠ 32 ∨ off.toNat % 4 ≠ 0 →
      exec (.wr off width v) s = .next { s with resp := some .busError }) ∧
    (v.getLsbD 0 = false → exec (.wr 0x004#12 32 v) s = .next { s with resp := some .written }) ∧
    (v.getLsbD 0 = true → s.busy = true → Ignored s (.wr 0x004#12 32 v)) ∧
    (v.getLsbD 0 = true → s.busy = false →
      Starts s (.wr 0x004#12 32 v) (BitVec.ofNat 3 (v.toNat / 2)) (v.getLsbD 4)
        (decide (v.toNat / 32 ≠ 0))) ∧
    exec (.wr 0x008#12 32 v) s = .next { s with
      done := if v.getLsbD 1 then false else s.done
      wbusy := if v.getLsbD 8 then false else s.wbusy
      resp := some .written } ∧
    exec (.wr 0x00C#12 32 v) s = .next { s with intEn := v.getLsbD 0, resp := some .written } ∧
    (s.busy = true → Ignored s (.wr 0x010#12 32 v)) ∧
    (s.busy = false → exec (.wr 0x010#12 32 v) s =
      .next { s with inLen := BitVec.ofNat 9 (v.toNat % 512), resp := some .written }) ∧
    (∀ i : Index,
      (s.busy = true → Ignored s (.wr (BitVec.ofNat 12 (0x400 + 4 * i.toNat)) 32 v)) ∧
      (s.busy = false → ∃ t,
        exec (.wr (BitVec.ofNat 12 (0x400 + 4 * i.toNat)) 32 v) s = .next t ∧
        t = { s with inBuf := t.inBuf, resp := some .written } ∧
        t.inBuf.read i.toNat = some (BitVec.ofNat 8 (v.toNat % 256)) ∧
        ∀ j, j ≠ i.toNat → t.inBuf.read j = s.inBuf.read j)) ∧
    (∀ off : Offset, off.toNat % 4 = 0 →
      (off = 0x000#12 ∨ off = 0x014#12 ∨ off = 0x018#12 ∨
        (0x01C ≤ off.toNat ∧ off.toNat < 0x400) ∨ 0x800 ≤ off.toNat) →
      exec (.wr off 32 v) s = .next { s with resp := some .written })

/-- R34: a misaligned or odd-width access gets BusError, changes nothing and reads no data; no other
access gets it, and no instruction faults. -/
def Obligations.BusErrorExactlyWhenMisaligned : Prop :=
  (∀ (i : Instr) (s : State), ∃ t, exec i s = .next t) ∧
  ∀ (off : Offset) (width : Nat) (v : Word) (s t : State),
    (exec (.rd off width) s = .next t ∨ exec (.wr off width v) s = .next t) →
      (t.resp = some .busError ↔ width ≠ 32 ∨ off.toNat % 4 ≠ 0) ∧
      (t.resp = some .busError → t = { s with resp := some .busError })

/-- R32: a reserved offset reads 0 and ignores writes, setting no flag. -/
def Obligations.ReservedOffsetsReadZero : Prop :=
  ∀ (off : Offset) (v : Word) (s : State), off.toNat % 4 = 0 →
    (0x01C ≤ off.toNat ∧ off.toNat ≤ 0x3FC ∨ 0xC00 ≤ off.toNat ∧ off.toNat ≤ 0xFFC) →
    ReadsAs s off 0#32 ∧ exec (.wr off 32 v) s = .next { s with resp := some .written }

/-- R45: a CMD write with START = 0 changes no state, WBUSY included, whatever the other bits and whatever
BUSY, as a row of its own and as a bus write. -/
def Obligations.NopChangesNothing : Prop :=
  ∀ s : State,
    (∀ r : BitVec 31, exec (.nop r) s = .next { s with resp := some .written }) ∧
    (∀ w : Word, w.toNat % 2 = 0 → exec (.wr 0x004#12 32 w) s = .next { s with resp := some .written })

/-- Every 32-bit write to IN_LEN, INT_EN, IN[], a no-operation, or to a place that ignores writes, done
twice, is the same as done once. -/
def Obligations.PlainWritesAreIdempotent : Prop :=
  ∀ (off : Offset) (width : Nat) (v : Word) (s t : State),
    (off = 0x004#12 → v.toNat % 2 = 0) → off ≠ 0x008#12 →
    exec (.wr off width v) s = .next t → exec (.wr off width v) t = .next t

/-- The frame of `rd` and `nop`: every register, every entry of both buffers, the parameters and the turns
are as before. -/
def Obligations.ReadAndNopFrame : Prop :=
  ∀ (i : Instr) (s t : State), ((∃ off width, i = .rd off width) ∨ ∃ r, i = .nop r) →
    exec i s = .next t → t = { s with resp := t.resp, draws := t.draws }

/-- The frame of `wr`. The entry stored to is the one `locate` gives for the offset, as the meaning
computes it; all other entries, and every register but the place's own (and, at CMD, those a START
writes), are as before. -/
def Obligations.WriteFrame : Prop :=
  ∀ (off : Offset) (width : Nat) (v : Word) (s t : State), exec (.wr off width v) s = .next t →
    (∀ j, (∀ i, locate off = .inEntry i → j ≠ i.toNat) → t.inBuf.read j = s.inBuf.read j) ∧
    (locate off ≠ .inLen → t.inLen = s.inLen) ∧
    (locate off ≠ .intEn → t.intEn = s.intEn) ∧
    (locate off ≠ .cmd → locate off ≠ .status → t.done = s.done) ∧
    (locate off ≠ .cmd → t.busy = s.busy ∧ t.err = s.err ∧ t.errCode = s.errCode ∧
      t.outLen = s.outLen ∧ t.errIndex = s.errIndex ∧ t.errValue = s.errValue ∧
      (∀ j, t.outBuf.read j = s.outBuf.read j) ∧
      t.latchOp = s.latchOp ∧ t.latchNullin = s.latchNullin ∧ t.latchRsv = s.latchRsv) ∧
    (t.wbusy ≠ s.wbusy → locate off = .cmd ∨ locate off = .status ∨ locate off = .inLen ∨
      ∃ i, locate off = .inEntry i) ∧
    t.params = s.params ∧ t.agenda = s.agenda ∧ t.draws = s.draws

/-! ### START -/

/-- R56: every START row, and every CMD write with bit 0 set, completes from an idle state in the state R56
gives; IN_LEN and IN[] are not touched. -/
def Obligations.StartFollowsR56 : Prop :=
  ∀ s : State, s.busy = false →
    (∀ n, Starts s (.encRaw n) 0b000#3 n false ∧ Starts s (.decRaw n) 0b001#3 n false ∧
      Starts s (.encSym n) 0b010#3 n false ∧ Starts s (.decSym n) 0b011#3 n false ∧
      Starts s (.beMin n) 0b100#3 n false ∧ Starts s (.illegalOp5 n) 0b101#3 n false ∧
      Starts s (.illegalOp6 n) 0b110#3 n false ∧ Starts s (.illegalOp7 n) 0b111#3 n false) ∧
    (∀ op n r, Starts s (.illegalRsv op n r) op n (decide (r ≠ 0#27))) ∧
    (∀ v : Word, v.toNat % 2 = 1 →
      Starts s (.wr 0x004#12 32 v) (BitVec.ofNat 3 (v.toNat / 2)) (decide (v.toNat / 16 % 2 = 1))
        (decide (v.toNat / 32 ≠ 0)))

/-- The frame of the nine START rows: the operands, the interrupt enable, the parameters and the turns are
as before; while BUSY everything but WBUSY is. -/
def Obligations.StartRowFrame : Prop :=
  ∀ (i : Instr) (s t : State), IsStartRow i → exec i s = .next t →
    (∀ j, t.inBuf.read j = s.inBuf.read j) ∧ t.inLen = s.inLen ∧ t.intEn = s.intEn ∧
    t.params = s.params ∧ t.agenda = s.agenda ∧ t.draws = s.draws ∧
    (s.busy = true → t = { s with wbusy := true, resp := t.resp })

/-- R55 and R57: while BUSY = 1 a START, a write to IN_LEN and a write to IN[] change only WBUSY; STATUS and
INT_EN are written; read-only registers ignore writes without WBUSY; WBUSY stays until W1C, START or reset;
and no instruction changes what the running operation will answer. -/
def Obligations.BusyIgnoresOperandWrites : Prop :=
  (∀ (s : State) (v : Word), s.busy = true →
    (∀ i, IsStartRow i → Ignored s i) ∧
    (v.toNat % 2 = 1 → Ignored s (.wr 0x004#12 32 v)) ∧
    Ignored s (.wr 0x010#12 32 v) ∧
    (∀ i : Index, Ignored s (.wr (BitVec.ofNat 12 (0x400 + 4 * i.toNat)) 32 v)) ∧
    exec (.wr 0x008#12 32 v) s = .next { s with
      done := s.done && !v.getLsbD 1, wbusy := s.wbusy && !v.getLsbD 8, resp := some .written } ∧
    exec (.wr 0x00C#12 32 v) s = .next { s with intEn := v.getLsbD 0, resp := some .written }) ∧
  (∀ (s : State) (v : Word) (off : Offset),
    (off = 0x000#12 ∨ off = 0x014#12 ∨ off = 0x018#12 ∨
      ∃ i : Index, off = BitVec.ofNat 12 (0x800 + 4 * i.toNat)) →
    exec (.wr off 32 v) s = .next { s with resp := some .written }) ∧
  (∀ (i : Instr) (s t : State), s.wbusy = true → exec i s = .next t → t.wbusy = false →
    (∃ v : Word, i = .wr 0x008#12 32 v ∧ v.getLsbD 8 = true) ∨ (s.busy = false ∧ t.busy = true)) ∧
  (∀ s t : State, complete s = .next t → t.wbusy = s.wbusy) ∧
  (∀ (i : Instr) (s t : State), s.busy = true → exec i s = .next t →
    t.busy = true ∧ t.result = s.result ∧ t.inLen = s.inLen ∧ ∀ j, t.inBuf.read j = s.inBuf.read j)

/-! ### COMPLETE -/

/-- R60: a result is published whole, with its length, and every operation's output fits OUT. -/
def Obligations.CommitOkFollowsR60 : Prop :=
  ∀ (s : State) (out : List Byte), s.result = .ok out →
    out.length ≤ 256 ∧ ∃ t, complete s = .next t ∧ t.Succeeded out

/-- R61: an error publishes its code, index and value, and no part of a result. -/
def Obligations.CommitErrFollowsR61 : Prop :=
  ∀ (s : State) (kind : ErrKind) (index value : Byte), s.result = .err kind index value →
    ∃ t, complete s = .next t ∧ t.Failed kind.code index value

/-- The frame of COMPLETE (R58, R90): the operands, INT_EN, WBUSY, LATCH, the parameters, the turns and the
bus are as before. -/
def Obligations.CompleteFrame : Prop :=
  ∀ s t : State, complete s = .next t →
    (∀ j, t.inBuf.read j = s.inBuf.read j) ∧ t.inLen = s.inLen ∧ t.intEn = s.intEn ∧
    t.wbusy = s.wbusy ∧ t.latchOp = s.latchOp ∧ t.latchNullin = s.latchNullin ∧
    t.latchRsv = s.latchRsv ∧ t.params = s.params ∧ t.agenda = s.agenda ∧ t.resp = s.resp ∧
    t.draws = s.draws

/-- R103: COMPLETE faults exactly when the operation reads input and an entry below LEN has not been written
since reset; a START and a completion keep the written entries. -/
def Obligations.UnwrittenInputFaultsExactly : Prop :=
  (∀ s : State, complete s = .fault .unwrittenInput ↔
    s.latchRsv = false ∧ s.latchNullin = false ∧
    ((s.latchOp = 0b000#3 ∨ s.latchOp = 0b010#3) ∧ s.inLen.toNat ≤ 40 ∨
      s.latchOp = 0b001#3 ∧ s.inLen.toNat ≤ 64 ∨
      (s.latchOp = 0b011#3 ∨ s.latchOp = 0b100#3) ∧ s.inLen.toNat ≤ 256) ∧
    ∃ i, i < s.inLen.toNat ∧ s.inBuf.read i = none) ∧
  (∀ s t : State, complete s = .next t → t.inBuf = s.inBuf) ∧
  (∀ (i : Instr) (s t : State), IsStartRow i → exec i s = .next t → t.inBuf = s.inBuf)

/-- R59, R41: the answer of EXEC depends only on LATCH, LEN, WS_SET and the entries below
min(LEN, IN_CAP): two states that agree on those end alike, whatever else they hold. -/
def Obligations.ResultDependsOnOperandsOnly : Prop :=
  ∀ s s' : State, s.latchOp = s'.latchOp → s.latchNullin = s'.latchNullin → s.latchRsv = s'.latchRsv →
    s.inLen = s'.inLen → s.params.wsSet = s'.params.wsSet →
    (∀ i, i < s.inLen.toNat → i < 256 → s.inBuf.read i = s'.inBuf.read i) →
    (complete s = .fault .unwrittenInput ↔ complete s' = .fault .unwrittenInput) ∧
    ∀ t t', complete s = .next t → complete s' = .next t' → t.observe = t'.observe

/-- R87: an error has the cause its code names. -/
def Obligations.ErrorsHaveTheirCauses : Prop :=
  ∀ (s : State) (kind : ErrKind) (index value : Byte), s.result = .err kind index value →
    (kind = .illegalCommand ↔ s.latchRsv = true ∨ 5 ≤ s.latchOp.toNat) ∧
    (kind ≠ .invalidSymbol → index = 0#8 ∧ value = 0#8) ∧
    (kind = .invalidInput → s.latchNullin = true ∨ (s.inLen = 0#9 ∧ s.latchOp ≠ 0b100#3) ∨
      (s.latchOp = 0b011#3 ∧
        ∀ i, i < s.inLen.toNat → ∃ c, s.inBuf.read i = some c ∧ c ∈ s.params.wsSet)) ∧
    (kind = .tooLarge → 256 < s.inLen.toNat ∨
      ((s.latchOp = 0b001#3 ∨ s.latchOp = 0b011#3) ∧ 64 < s.inLen.toNat) ∨
      ((s.latchOp = 0b000#3 ∨ s.latchOp = 0b010#3) ∧ 64 < (8 * s.inLen.toNat + 4) / 5)) ∧
    (kind = .invalidSymbol → s.inLen.toNat ≤ 64 ∧ index.toNat < s.inLen.toNat ∧
      s.inBuf.read index.toNat = some value ∧
      ((s.latchOp = 0b001#3 ∧ 32 ≤ value.toNat ∧
          ∀ j c, j < index.toNat → s.inBuf.read j = some c → c.toNat < 32) ∨
        (s.latchOp = 0b011#3 ∧ value ∉ alphabet ∧
          ∀ j c, j < index.toNat → s.inBuf.read j = some c → c ∈ alphabet)))

/-! ### The operations, from START to completion -/

/-- R71: `enc.raw` from every idle state whose operands it can read, and each error it ends with. -/
def Obligations.EncRawFollowsR71 : Prop :=
  (∀ page, encode page (.encRaw false) = .write (4096 * page + 4) 32 0x00000001#32 ∧
    encode page (.encRaw true) = .write (4096 * page + 4) 32 0x00000011#32) ∧
  ∀ s : State, s.busy = false →
    (∃ u, Performs (.encRaw true) s u ∧ u.Failed 1#3 0#8 0#8) ∧
    (s.inLen = 0#9 → ∃ u, Performs (.encRaw false) s u ∧ u.Failed 1#3 0#8 0#8) ∧
    (41 ≤ s.inLen.toNat → ∃ u, Performs (.encRaw false) s u ∧ u.Failed 2#3 0#8 0#8) ∧
    (∀ b, 1 ≤ b.length → b.length ≤ 40 → s.HoldsInput b →
      ∃ u, Performs (.encRaw false) s u ∧
        u.Succeeded (asBytes (digitsOf 32 ((8 * b.length + 4) / 5) (pivotOfBytes b))))

/-- R72: `enc.sym`, the same groups as alphabet codes. -/
def Obligations.EncSymFollowsR72 : Prop :=
  (∀ page, encode page (.encSym false) = .write (4096 * page + 4) 32 0x00000005#32 ∧
    encode page (.encSym true) = .write (4096 * page + 4) 32 0x00000015#32) ∧
  ∀ s : State, s.busy = false →
    (∃ u, Performs (.encSym true) s u ∧ u.Failed 1#3 0#8 0#8) ∧
    (s.inLen = 0#9 → ∃ u, Performs (.encSym false) s u ∧ u.Failed 1#3 0#8 0#8) ∧
    (41 ≤ s.inLen.toNat → ∃ u, Performs (.encSym false) s u ∧ u.Failed 2#3 0#8 0#8) ∧
    (∀ b, 1 ≤ b.length → b.length ≤ 40 → s.HoldsInput b →
      ∃ u, Performs (.encSym false) s u ∧
        u.Succeeded ((digitsOf 32 ((8 * b.length + 4) / 5) (pivotOfBytes b)).map
          fun d => alphabet.getD d 0#8))

/-- R78: `dec.raw`, the lowest offending entry included. -/
def Obligations.DecRawFollowsR78 : Prop :=
  (∀ page, encode page (.decRaw false) = .write (4096 * page + 4) 32 0x00000003#32 ∧
    encode page (.decRaw true) = .write (4096 * page + 4) 32 0x00000013#32) ∧
  ∀ s : State, s.busy = false →
    (∃ u, Performs (.decRaw true) s u ∧ u.Failed 1#3 0#8 0#8) ∧
    (s.inLen = 0#9 → ∃ u, Performs (.decRaw false) s u ∧ u.Failed 1#3 0#8 0#8) ∧
    (65 ≤ s.inLen.toNat → ∃ u, Performs (.decRaw false) s u ∧ u.Failed 2#3 0#8 0#8) ∧
    (∀ g, 1 ≤ g.length → g.length ≤ 64 → s.HoldsInput g →
      (∀ i e, g[i]? = some e → 32 ≤ e.toNat →
        (∀ j e', j < i → g[j]? = some e' → e'.toNat < 32) →
        ∃ u, Performs (.decRaw false) s u ∧ u.Failed 3#3 (BitVec.ofNat 8 i) e) ∧
      ((∀ e ∈ g, e.toNat < 32) →
        ∃ u, Performs (.decRaw false) s u ∧
          u.Succeeded (asBytes (digitsOf 256 (decodedLength g.length (pivotOfGroups g)) (pivotOfGroups g)))))

/-- R79: `dec.sym`, for every WS_SET, with its checks in R79's order. -/
def Obligations.DecSymFollowsR79 : Prop :=
  (∀ page, encode page (.decSym false) = .write (4096 * page + 4) 32 0x00000007#32 ∧
    encode page (.decSym true) = .write (4096 * page + 4) 32 0x00000017#32) ∧
  ∀ s : State, s.busy = false →
    (∃ u, Performs (.decSym true) s u ∧ u.Failed 1#3 0#8 0#8) ∧
    (s.inLen = 0#9 → ∃ u, Performs (.decSym false) s u ∧ u.Failed 1#3 0#8 0#8) ∧
    (257 ≤ s.inLen.toNat → ∃ u, Performs (.decSym false) s u ∧ u.Failed 2#3 0#8 0#8) ∧
    (∀ cs, 1 ≤ cs.length → cs.length ≤ 256 → s.HoldsInput cs →
      ((∀ x ∈ cs, x ∈ s.params.wsSet) →
        ∃ u, Performs (.decSym false) s u ∧ u.Failed 1#3 0#8 0#8) ∧
      ((∃ x ∈ cs, x ∉ s.params.wsSet) →
        (65 ≤ cs.length → ∃ u, Performs (.decSym false) s u ∧ u.Failed 2#3 0#8 0#8) ∧
        (cs.length ≤ 64 →
          (∀ i e, cs[i]? = some e → e ∉ alphabet → (∀ j e', j < i → cs[j]? = some e' → e' ∈ alphabet) →
            ∃ u, Performs (.decSym false) s u ∧ u.Failed 3#3 (BitVec.ofNat 8 i) e) ∧
          ((∀ e ∈ cs, e ∈ alphabet) →
            ∃ u, Performs (.decSym false) s u ∧
              u.Succeeded (asBytes
                (digitsOf 256 (decodedLength cs.length (valueOf 32 (cs.map fun x => alphabet.idxOf x)))
                  (valueOf 32 (cs.map fun x => alphabet.idxOf x))))))))

/-- R67: `be.min` strips leading zero bytes; an empty input is legal. -/
def Obligations.BeMinFollowsR67 : Prop :=
  (∀ page, encode page (.beMin false) = .write (4096 * page + 4) 32 0x00000009#32 ∧
    encode page (.beMin true) = .write (4096 * page + 4) 32 0x00000019#32) ∧
  ∀ s : State, s.busy = false →
    (∃ u, Performs (.beMin true) s u ∧ u.Failed 1#3 0#8 0#8) ∧
    (257 ≤ s.inLen.toNat → ∃ u, Performs (.beMin false) s u ∧ u.Failed 2#3 0#8 0#8) ∧
    (∀ b, b.length ≤ 256 → s.HoldsInput b →
      ∃ u, Performs (.beMin false) s u ∧ u.Succeeded (b.dropWhile fun x => x == 0#8))

/-- R48: every illegal word, as its row and as a CMD write, is accepted as a START and completes with
IllegalCommand, whatever the operands. -/
def Obligations.IllegalWordsFollowR48 : Prop :=
  ∀ s : State, s.busy = false →
    (∀ i, IsIllegalRow i → i.wellFormed = true → ∃ u, Performs i s u ∧ u.Failed 4#3 0#8 0#8) ∧
    (∀ w : Word, w.toNat % 2 = 1 → (w.toNat / 32 ≠ 0 ∨ 5 ≤ w.toNat / 2 % 8) →
      ∃ u, Performs (.wr 0x004#12 32 w) s u ∧ u.Failed 4#3 0#8 0#8)

/-! ### Acknowledging, and the interrupt -/

/-- R26: IRQ is DONE and IE; it is low after reset, rises at a completion when IE = 1, and falls with DONE or
IE. -/
def Obligations.IrqFollowsR26 : Prop :=
  (∀ s : State, s.irq = true ↔ s.done = true ∧ s.intEn = true) ∧ State.reset.irq = false ∧
  (∀ s t : State, complete s = .next t → t.irq = s.intEn) ∧
  (∀ (s t : State) (v : Word), exec (.wr 0x008#12 32 v) s = .next t → v.getLsbD 1 = true → t.irq = false) ∧
  (∀ (i : Instr) (s t : State), IsStartRow i → s.busy = false → exec i s = .next t → t.irq = false) ∧
  (∀ (s t : State) (v : Word), exec (.wr 0x00C#12 32 v) s = .next t →
    t.irq = (s.done && v.getLsbD 0))

/-- R91: the two acknowledgements. A W1C write of STATUS bit 1 clears DONE and lowers IRQ and leaves the
error as it is; an accepted START clears all of it, and only BUSY blocks a START. -/
def Obligations.AcknowledgingFollowsR91 : Prop :=
  (∀ (s t : State) (v : Word), exec (.wr 0x008#12 32 v) s = .next t → v.getLsbD 1 = true →
    t.done = false ∧ t.irq = false ∧ t.err = s.err ∧ t.errCode = s.errCode ∧
    t.errIndex = s.errIndex ∧ t.errValue = s.errValue) ∧
  (∀ (i : Instr) (s t : State), IsStartRow i → exec i s = .next t →
    (s.busy = false → t.busy = true ∧ t.done = false ∧ t.err = false ∧ t.errCode = 0#3 ∧
      t.wbusy = false ∧ t.errIndex = 0#8 ∧ t.errValue = 0#8) ∧
    (s.busy = true → t = { s with wbusy := true, resp := some .written }))

/-! ### The codec -/

/-- R64: the sum of the bytes by their places, and the fold's own step. -/
def Obligations.FromBeFollowsR64 : Prop :=
  fromBE [] = 0 ∧
  ∀ b : List Byte,
    fromBE b = ∑ i ∈ Finset.range b.length, (b.getD i 0#8).toNat * 256 ^ (b.length - 1 - i) ∧
    ∀ x : Byte, fromBE (b ++ [x]) = fromBE b <<< 8 ||| x.toNat

/-- R65: the loop, one round at a time, its collected bytes reversed. -/
def Obligations.ToBeFollowsR65 : Prop :=
  toBE 0 = [] ∧ ∀ v, v ≠ 0 → toBE v = toBE (v >>> 8) ++ [BitVec.ofNat 8 (v % 256)]

/-- R66, the nine laws. -/
def Obligations.BigEndianLawsOfR66 : Prop :=
  fromBE [] = 0 ∧ toBE 0 = [] ∧
  (∀ b : List Byte, fromBE b < 2 ^ (8 * b.length)) ∧
  (∀ v n, (toBE v).length ≤ n ↔ v < 2 ^ (8 * n)) ∧
  (∀ v n, (∀ m, v < 2 ^ m ↔ n ≤ m) → (toBE v).length = (n + 7) / 8) ∧
  (∀ v, 0 < v → ∃ x rest, toBE v = x :: rest ∧ x ≠ 0#8) ∧
  (∀ v, fromBE (toBE v) = v) ∧
  (∀ b, toBE (fromBE b) = strip b) ∧ (∀ k, strip (zeros k) = []) ∧
  (∀ b k, fromBE (zeros k ++ b) = fromBE b) ∧
  (∀ b c, fromBE (b ++ c) = fromBE b <<< (8 * c.length) ||| fromBE c) ∧
  (∀ v n, v < 2 ^ (8 * n) → (padTo n (toBE v)).length = n ∧ fromBE (padTo n (toBE v)) = v)

/-- R68: the group count, its limit and the pad count. -/
def Obligations.GroupCountsOfR68 : Prop :=
  ∀ n, (∀ g, groupCount n ≤ g ↔ 8 * n ≤ 5 * g) ∧ (groupCount n ≤ 64 ↔ n ≤ 40) ∧
    groupCount 40 = 64 ∧ groupCount 41 = 66 ∧
    padCount n = 5 * groupCount n - 8 * n ∧
    padCount n = if n % 5 = 0 then 0 else if n % 5 = 1 then 2 else if n % 5 = 2 then 4
      else if n % 5 = 3 then 1 else 3

/-- R69: `G` groups, group `j` the closed form of R69. -/
def Obligations.EncGroupsOfR69 : Prop :=
  ∀ b : List Byte, (encGroups b).length = (8 * b.length + 4) / 5 ∧
    ∀ j, j < (encGroups b).length →
      ((encGroups b)[j]?).map (fun x => x.toNat) =
        some ((fromBE b >>> (5 * ((encGroups b).length - 1 - j))) &&& 31)

/-- R70: the streaming datapath, which no step calls (notes/assumptions/12.md), gives the same list. -/
def Obligations.EncStreamRefinesR69 : Prop := ∀ b : List Byte, encStream b = encGroups b

/-- R73, laws 1 to 4: the lengths, the first group, the base-32 digits and the alphabet's closure. -/
def Obligations.EncodeLawsOfR73 : Prop :=
  ∀ b : List Byte, 1 ≤ b.length → b.length ≤ 40 →
    (encGroups b).length ∈ [2, 4, 5, 7, 8, 10, 12, 13, 15, 16, 18, 20, 21, 23, 24, 26, 28, 29, 31, 32, 34,
      36, 37, 39, 40, 42, 44, 45, 47, 48, 50, 52, 53, 55, 56, 58, 60, 61, 63, 64] ∧
    (∃ g rest, encGroups b = g :: rest ∧ g.toNat < 2 ^ (5 - padCount b.length)) ∧
    valueOf 32 ((encGroups b).map fun g => g.toNat) = fromBE b ∧
    ∀ g ∈ encGroups b, sym g ∈ alphabet

/-- R76: the head bits and the exact-fit bytes, and the streaming datapath. That the datapath puts
`8 - r(k)` zero bits before the group string is the model's own form of it, DEDUCED (notes/assumptions/12.md). -/
def Obligations.DecStreamRefinesR75 : Prop :=
  ∀ g : List Group,
    decStream g = decBytes g ∧
    ∀ v h : Nat, v = valueOf 32 (g.map fun x => x.toNat) → h = v / 256 ^ (5 * g.length / 8) →
      decBytes g = (if h = 0 then [] else [BitVec.ofNat 8 h]) ++
        asBytes (digitsOf 256 (5 * g.length / 8) v)

/-- R80, laws 1 to 3: the output length, its bound, and the pivot's value kept. -/
def Obligations.DecodeLengthLawsOfR80 : Prop :=
  ∀ (g : List Group) (v : Nat), v = valueOf 32 (g.map fun x => x.toNat) →
    (decBytes g).length = decodedLength g.length v ∧
    (g.length % 8 = 0 → (decBytes g).length = 5 * g.length / 8) ∧
    (g.length ≤ 64 → (decBytes g).length ≤ 40 ∧
      ((decBytes g).length = 40 → g.length = 64 ∨ g.length = 63)) ∧
    fromBE (decBytes g) = v

/-- R80, law 5: encoding after decoding gives the groups back exactly when fewer than five bits are left over
and they are zero. -/
def Obligations.EncodeAfterDecode : Prop :=
  ∀ g : List Group, encGroups (decBytes g) = g ↔
    5 * g.length % 8 < 5 ∧ valueOf 32 (g.map fun x => x.toNat) < 256 ^ (5 * g.length / 8)

/-- R80, law 4 and R73, law 5, on the machine: what `enc.raw` publishes, given to `dec.raw` in any idle
state, ends with the bytes encoded; the same for `enc.sym` and `dec.sym`, for every WS_SET that does not
meet the alphabet. -/
def Obligations.DecodeAfterEncodeIsIdentity : Prop :=
  ∀ (s u s' : State) (b c : List Byte), s.busy = false → s'.busy = false →
    1 ≤ b.length → b.length ≤ 40 → s.HoldsInput b → s'.HoldsInput c → u.Succeeded c →
    (Performs (.encRaw false) s u → ∃ u', Performs (.decRaw false) s' u' ∧ u'.Succeeded b) ∧
    (ParamsLegal s'.params → Performs (.encSym false) s u →
      ∃ u', Performs (.decSym false) s' u' ∧ u'.Succeeded b)

/-- R80, law 6: where a decode has an overflow byte, a leading zero group does not change it, so two group
strings have one output; and where it has none the two may differ. -/
def Obligations.DecodeIsNotInjective : Prop :=
  (∀ g : List Group, 256 ^ (5 * g.length / 8) ≤ valueOf 32 (g.map fun x => x.toNat) →
    decBytes (0#5 :: g) = decBytes g) ∧
  decBytes [1#5] = [0x01#8] ∧ decBytes [0#5, 1#5] = [0x01#8] ∧
  decBytes [0#5] = [] ∧ decBytes [0#5, 0#5] = [0x00#8]

/-- R82 to R84 over the table of R81, written out: SYM gives the code of its row, INDEX is its inverse, and the
codes that are not in the alphabet are none and are rejected with InvalidSymbol, upper case among them. The
whitespace codes are those of the default WS_SET (R77), written out. The spec supplies both lists' codes from
general knowledge (93_implementation_defined.md K1, 92_eei_decisions.md D11, D12). -/
def Obligations.AlphabetMapping : Prop :=
  alphabet = [0x61#8, 0x62#8, 0x63#8, 0x64#8, 0x65#8, 0x66#8, 0x67#8, 0x68#8,
    0x69#8, 0x6A#8, 0x6B#8, 0x6D#8, 0x6E#8, 0x70#8, 0x71#8, 0x72#8,
    0x73#8, 0x74#8, 0x75#8, 0x76#8, 0x77#8, 0x78#8, 0x79#8, 0x7A#8,
    0x32#8, 0x33#8, 0x34#8, 0x35#8, 0x36#8, 0x37#8, 0x38#8, 0x39#8] ∧
  (∀ v : Group, alphabet[v.toNat]? = some (sym v)) ∧
  (∀ (c : Byte) (v : Group), index c = some v ↔ sym v = c) ∧
  (∀ c : Byte, index c = none ↔ c ∉ alphabet) ∧
  (∀ c : Byte, 0x41 ≤ c.toNat ∧ c.toNat ≤ 0x5A → index c = none) ∧
  (∀ c : Byte, 0x80 ≤ c.toNat → index c = none) ∧
  (∀ c ∈ [0x30#8, 0x31#8, 0x6C#8, 0x6F#8], index c = none) ∧
  (∀ c ∈ [0x09#8, 0x0A#8, 0x0B#8, 0x0C#8, 0x0D#8, 0x20#8], index c = none) ∧
  (∀ g : List Group, (g.map sym).filterMap index = g) ∧
  (∀ (s : State) (c : Byte), s.busy = false → s.HoldsInput [c] → c ∉ s.params.wsSet → index c = none →
    ∃ u, Performs (.decSym false) s u ∧ u.Failed 3#3 0#8 c)

/-- R29: the bounds of the pivot of each family of operations. -/
def Obligations.PivotBoundsOfR29 : Prop :=
  (∀ b : List Byte, groupCount b.length ≤ 64 → fromBE b < 2 ^ 320) ∧
  (∀ g : List Group, g.length ≤ 64 → fromGroups g < 2 ^ 320) ∧
  (∀ b : List Byte, b.length ≤ 256 → fromBE b < 2 ^ 2048)

/-! ### Whole-machine rules -/

/-- The invariant holds at reset, and the WS_SET reset holds is R77's default, written out, which does not
meet the alphabet (93_implementation_defined.md I2). WS_SET is OPEN (00_scope.md R6): that State.reset holds
its default is the model's choice, a DESIGN CHOICE (notes/assumptions/3.md). -/
def Obligations.InvariantAtReset : Prop :=
  State.reset.Inv ∧ State.reset.params.wsSet = [0x09#8, 0x0A#8, 0x0B#8, 0x0C#8, 0x0D#8, 0x20#8] ∧
  ParamsLegal State.reset.params

/-- Every step keeps the invariant: the legal combinations of STATUS (R18), OUT defined exactly below OUT_LEN
(R21, R24), ERR_INFO as R22 says, both buffers in canonical form. -/
def Obligations.StepKeepsInvariant : Prop :=
  ∀ s t : State, s.Inv → step s = .next t → t.Inv

/-- No step changes the OPEN parameters, every step takes one turn and adds none, and the only stop is
UnwrittenInput, at a running operation's completion. -/
def Obligations.StepKeepsParamsAndStopsOnlyUnwritten : Prop :=
  ∀ s : State,
    (∀ t, step s = .next t → t.params = s.params ∧ t.agenda = s.agenda.tail) ∧
    (∀ f, step s = .fault f → f = .unwrittenInput ∧ s.busy = true ∧
      complete s = .fault .unwrittenInput) ∧
    (∀ r, step s ≠ .refused r)

/-- R24, R105: in every state that meets the invariant a read of OUT[i] while BUSY, after an error, or at or
above OUT_LEN answers a free byte, and any other read of OUT answers the entry's value. -/
def Obligations.OutReadsDefinedExactlyBelowOutLen : Prop :=
  ∀ (s : State) (i : Index), s.Inv →
    (s.busy = true ∨ s.err = true ∨ s.outLen.toNat ≤ i.toNat →
      exec (.rd (BitVec.ofNat 12 (0x800 + 4 * i.toNat)) 32) s = .next { s with
        resp := some (.data (BitVec.ofNat 32 (Config.freeByte s.draws).toNat)), draws := s.draws + 1 }) ∧
    (i.toNat < s.outLen.toNat → ∃ b, s.outBuf.read i.toNat = some b ∧
      ReadsAs s (BitVec.ofNat 12 (0x800 + 4 * i.toNat)) (BitVec.ofNat 32 b.toNat))

/-- R55, R93: whatever host accesses fall between a START and the engine's turn, the operation ends as it
would have ended at once: with the same observation (R110), or the same fault. That the agenda orders the turns
is the model's choice (notes/assumptions/2.md). -/
def Obligations.HostAccessesCannotChangeARunningOperation : Prop :=
  ∀ (es : List BusOp) (rest : List Event) (s : State), s.busy = true →
    s.agenda = es.map .access ++ .engine :: rest →
    (∀ u, complete s = .next u →
      ∃ u', Sys2Proof.core.run (es.length + 1) s = .next u' ∧ u'.observe = u.observe ∧ u'.agenda = rest) ∧
    (∀ f, complete s = .fault f → Sys2Proof.core.run (es.length + 1) s = .fault f)

/-- R109, R110: once the listed turns are over one more step ends the running operation, so that after one
step more than the agenda is long the machine is idle, or has stopped at UnwrittenInput. That the engine has the
turn when none is listed is the model's choice (notes/assumptions/2.md). -/
def Obligations.EveryOperationEnds : Prop :=
  ∀ s : State,
    (∃ t, Sys2Proof.core.run (s.agenda.length + 1) s = .next t ∧ t.busy = false ∧ t.agenda = []) ∨
    Sys2Proof.core.run (s.agenda.length + 1) s = .fault .unwrittenInput

/-- R93, R101: reset wins. Whatever turns of the engine, of reset and of the host come after a reset, as long as
no access decodes to a START row (as every 32-bit write to CMD with bit 0 set does), the operation that was
running is not completed by them: nothing is published and DONE stays 0. That the agenda orders the turns is the
model's choice (notes/assumptions/2.md). -/
def Obligations.ResetAbortsTheRunningOperation : Prop :=
  ∀ (es rest : List Event) (s : State), s.agenda = .reset :: (es ++ rest) →
    (∀ t, .access t ∈ es → ∀ i, decode s.params.basePage t = .instr i → ¬ IsStartRow i) →
    ∃ u, Sys2Proof.core.run (es.length + 1) s = .next u ∧ u.agenda = rest ∧
      u.busy = false ∧ u.done = false ∧ u.err = false ∧ u.errCode = 0#3 ∧ u.outLen = 0#9 ∧
      ∀ i, u.outBuf.read i = none
end

