-- ==== Sys2Proof/Laws/Memory.lean ====
section
/-! SUPPORT. The buffers: read after write, the canonical form, and what `fill` and `readEntries` give. -/

namespace Sys2Proof.Machine

@[simp] theorem Memory.read_nil (a : Nat) : Memory.read [] a = none := rfl

theorem Memory.read_cons (k : Nat) (b : Byte) (m : Memory) (a : Nat) :
    Memory.read ((k, b) :: m) a = if k = a then some b else Memory.read m a := rfl

/-- Below the first listed entry nothing is listed. -/
theorem Memory.read_below {m : Memory} {low : Nat} (h : Memory.wfFrom low m = true) {a : Nat}
    (ha : a < low) : m.read a = none := by
  induction m generalizing low with
  | nil => rfl
  | cons c rest ih =>
    obtain ⟨k, b⟩ := c
    simp only [Memory.wfFrom, Bool.and_eq_true, decide_eq_true_eq] at h
    rw [Memory.read_cons, if_neg (by omega)]
    exact ih h.2 (by omega)

theorem Memory.read_write_same (m : Memory) (a : Nat) (v : Byte) : (m.write a v).read a = some v := by
  induction m with
  | nil => simp [Memory.write, Memory.read]
  | cons c rest ih =>
    obtain ⟨k, b⟩ := c
    simp only [Memory.write]
    split
    · simp [Memory.read]
    · split
      · simp [Memory.read]
      · rw [Memory.read_cons, if_neg (by omega), ih]

theorem Memory.read_write_other (m : Memory) {a a' : Nat} (v : Byte) (h : a' ≠ a) :
    (m.write a v).read a' = m.read a' := by
  induction m with
  | nil => simp [Memory.write, Memory.read, Ne.symm h]
  | cons c rest ih =>
    obtain ⟨k, b⟩ := c
    simp only [Memory.write]
    split
    · rw [Memory.read_cons, if_neg (by omega)]
    · split
      · subst_vars
        rw [Memory.read_cons, Memory.read_cons, if_neg (by omega), if_neg (by omega)]
      · rw [Memory.read_cons, Memory.read_cons, ih]

/-- The canonical form from `low` upward survives a write at or above `low`. -/
theorem Memory.wfFrom_write {m : Memory} {low a : Nat} (v : Byte) (h : Memory.wfFrom low m = true)
    (hl : low ≤ a) (ha : a < Config.inCap) : Memory.wfFrom low (m.write a v) = true := by
  induction m generalizing low with
  | nil => simp [Memory.write, Memory.wfFrom, hl, ha]
  | cons c rest ih =>
    obtain ⟨k, b⟩ := c
    simp only [Memory.wfFrom, Bool.and_eq_true, decide_eq_true_eq] at h
    simp only [Memory.write]
    split
    · simp only [Memory.wfFrom, Bool.and_eq_true, decide_eq_true_eq]
      exact ⟨⟨hl, ha⟩, ⟨by omega, h.1.2⟩, h.2⟩
    · split
      · subst_vars
        simp only [Memory.wfFrom, Bool.and_eq_true, decide_eq_true_eq]
        exact ⟨⟨hl, ha⟩, h.2⟩
      · simp only [Memory.wfFrom, Bool.and_eq_true, decide_eq_true_eq]
        exact ⟨h.1, ih h.2 (by omega)⟩

/-- Every write of an entry keeps the canonical form. -/
theorem Memory.wf_write {m : Memory} (h : m.wf = true) (i : Index) (v : Byte) :
    (m.write i.toNat v).wf = true :=
  Memory.wfFrom_write v h (Nat.zero_le _) i.isLt

theorem Memory.wfFrom_fill (bytes : List Byte) (start : Nat)
    (h : start + bytes.length ≤ Config.inCap) : Memory.wfFrom start (Memory.fill start bytes) = true := by
  induction bytes generalizing start with
  | nil => rfl
  | cons b rest ih =>
    simp only [List.length_cons] at h
    simp only [Memory.fill, Memory.wfFrom, Bool.and_eq_true, decide_eq_true_eq]
    exact ⟨⟨Nat.le_refl _, by omega⟩, ih (start + 1) (by omega)⟩

/-- A published sequence of at most 256 bytes is in canonical form. -/
theorem Memory.wf_fill (bytes : List Byte) (h : bytes.length ≤ Config.outCap) :
    (Memory.fill 0 bytes).wf = true :=
  Memory.wfFrom_fill bytes 0 (by simpa [Config.inCap, Config.outCap] using h)

@[simp] theorem Memory.wf_nil : Memory.wf [] = true := rfl

/-- A filled buffer reads as the sequence it was filled with. -/
theorem Memory.read_fill (bytes : List Byte) (start a : Nat) :
    (Memory.fill start bytes).read a = if start ≤ a then bytes[a - start]? else none := by
  induction bytes generalizing start with
  | nil => simp [Memory.fill]
  | cons b rest ih =>
    simp only [Memory.fill, Memory.read_cons, ih]
    by_cases h : start = a
    · simp [h]
    · by_cases h' : start + 1 ≤ a
      · rw [if_neg h, if_pos h', if_pos (by omega),
          show a - start = (a - (start + 1)) + 1 from by omega, List.getElem?_cons_succ]
      · rw [if_neg h, if_neg h', if_neg (by omega)]

theorem Memory.read_fill_zero (bytes : List Byte) (a : Nat) :
    (Memory.fill 0 bytes).read a = bytes[a]? := by
  simp [Memory.read_fill]

/-- Canonical buffers that read the same everywhere are the same list. -/
theorem Memory.ext_of_wfFrom {m m' : Memory} {low : Nat} (h : Memory.wfFrom low m = true)
    (h' : Memory.wfFrom low m' = true) (he : ∀ a, m.read a = m'.read a) : m = m' := by
  induction m generalizing low m' with
  | nil =>
    cases m' with
    | nil => rfl
    | cons c _ =>
      have := he c.1
      simp [Memory.read] at this
  | cons c rest ih =>
    obtain ⟨k, b⟩ := c
    cases m' with
    | nil =>
      have := he k
      simp [Memory.read] at this
    | cons c' rest' =>
      obtain ⟨k', b'⟩ := c'
      simp only [Memory.wfFrom, Bool.and_eq_true, decide_eq_true_eq] at h h'
      have hk : k = k' := by
        have h1 := he k
        have h2 := he k'
        rcases Nat.lt_trichotomy k k' with hlt | heq | hgt
        · rw [Memory.read_cons, if_pos rfl, Memory.read_cons, if_neg (by omega),
            Memory.read_below h'.2 (by omega)] at h1
          simp at h1
        · exact heq
        · rw [Memory.read_cons, if_neg (by omega), Memory.read_below h.2 (by omega),
            Memory.read_cons, if_pos rfl] at h2
          simp at h2
      subst hk
      have hb : b = b' := by
        have := he k
        simpa [Memory.read] using this
      subst hb
      have : rest = rest' := by
        refine ih h.2 h'.2 fun a => ?_
        by_cases ha : k = a
        · subst ha
          rw [Memory.read_below h.2 (by omega), Memory.read_below h'.2 (by omega)]
        · have := he a
          rwa [Memory.read_cons, Memory.read_cons, if_neg ha, if_neg ha] at this
      rw [this]

/-- `readEntries` answers `b` exactly when the entries hold the bytes of `b` in order. -/
theorem readEntries_eq_some (m : Memory) (start n : Nat) (b : List Byte) :
    readEntries m start n = some b ↔ b.length = n ∧ ∀ i, i < n → m.read (start + i) = b[i]? := by
  induction n generalizing start b with
  | zero =>
    simp only [readEntries, Option.some.injEq, Nat.not_lt_zero, false_implies, implies_true, and_true]
    constructor
    · rintro rfl
      rfl
    · intro h
      exact (List.length_eq_zero_iff.mp h).symm
  | succ n ih =>
    simp only [readEntries]
    constructor
    · intro h
      split at h
      · next x rest hx hr =>
        obtain rfl : x :: rest = b := by simpa using h
        obtain ⟨hl, hi⟩ := (ih (start + 1) rest).mp hr
        refine ⟨by simp [hl], fun i hi' => ?_⟩
        cases i with
        | zero => simpa using hx
        | succ i =>
          have := hi i (by omega)
          rwa [List.getElem?_cons_succ, show start + (i + 1) = start + 1 + i from by omega]
      · simp at h
    · rintro ⟨hl, hi⟩
      cases b with
      | nil => simp at hl
      | cons x rest =>
        have h0 : m.read start = some x := by simpa using hi 0 (by omega)
        have hr : readEntries m (start + 1) n = some rest := by
          refine (ih (start + 1) rest).mpr ⟨by simpa using hl, fun i hi' => ?_⟩
          have := hi (i + 1) (by omega)
          rwa [List.getElem?_cons_succ, show start + (i + 1) = start + 1 + i from by omega] at this
        rw [h0, hr]

/-- `readEntries` answers nothing exactly when one of the entries holds no value. -/
theorem readEntries_eq_none (m : Memory) (start n : Nat) :
    readEntries m start n = none ↔ ∃ i, i < n ∧ m.read (start + i) = none := by
  induction n generalizing start with
  | zero => simp [readEntries]
  | succ n ih =>
    have key : readEntries m start (n + 1) = none ↔
        m.read start = none ∨ readEntries m (start + 1) n = none := by
      simp only [readEntries]
      cases m.read start <;> cases readEntries m (start + 1) n <;> simp
    rw [key, ih]
    constructor
    · rintro (h | ⟨i, hi, h⟩)
      · exact ⟨0, by omega, h⟩
      · exact ⟨i + 1, by omega, by rwa [show start + (i + 1) = start + 1 + i from by omega]⟩
    · rintro ⟨i, hi, h⟩
      cases i with
      | zero => exact .inl h
      | succ i => exact .inr ⟨i, by omega, by rwa [show start + 1 + i = start + (i + 1) from by omega]⟩

end Sys2Proof.Machine
end

