-- ==== Sys2Proof/Laws/Codec.lean ====
section
/-! SUPPORT. One lemma per shared part of the operation functions: reading the input, looking for the first
offending entry, and the loops' accumulators and fuel. -/

namespace Sys2Proof.Machine

/-- An input that is written whole is what the rest of the operation runs on. -/
theorem withInput_read {inp : Memory} {len : Nat} {b : List Byte} (f : List Byte → Result)
    (hl : b.length = len) (hb : ∀ i, i < len → inp.read i = b[i]?) : withInput inp len f = f b := by
  have h : readInput inp len = some b :=
    (readEntries_eq_some inp 0 len b).mpr ⟨hl, fun i hi => by rw [Nat.zero_add]; exact hb i hi⟩
  simp [withInput, h]

/-- An entry not written ends the operation with UnwrittenInput. -/
theorem withInput_missing {inp : Memory} {len i : Nat} (f : List Byte → Result) (hi : i < len)
    (h : inp.read i = none) : withInput inp len f = .unwritten := by
  have h' : readInput inp len = none :=
    (readEntries_eq_none inp 0 len).mpr ⟨i, hi, by rw [Nat.zero_add]; exact h⟩
  simp [withInput, h']

/-- Everything `withInput` can do. -/
theorem withInput_cases (inp : Memory) (len : Nat) (f : List Byte → Result) :
    (∃ b, b.length = len ∧ (∀ i, i < len → inp.read i = b[i]?) ∧ withInput inp len f = f b) ∨
    (∃ i, i < len ∧ inp.read i = none ∧ withInput inp len f = .unwritten) := by
  cases h : readInput inp len with
  | some b =>
    obtain ⟨hl, hb⟩ := (readEntries_eq_some inp 0 len b).mp h
    refine .inl ⟨b, hl, fun i hi => ?_, by simp [withInput, h]⟩
    have := hb i hi
    rwa [Nat.zero_add] at this
  | none =>
    obtain ⟨i, hi, hr⟩ := (readEntries_eq_none inp 0 len).mp h
    rw [Nat.zero_add] at hr
    exact .inr ⟨i, hi, hr, by simp [withInput, h]⟩

theorem firstOffending_eq_none (bad : Byte → Bool) (start : Nat) (entries : List Byte) :
    firstOffending bad start entries = none ↔ ∀ e ∈ entries, bad e = false := by
  induction entries generalizing start with
  | nil => simp [firstOffending]
  | cons x rest ih =>
    simp only [firstOffending, List.mem_cons, forall_eq_or_imp]
    cases hx : bad x
    · simpa using ih (start + 1)
    · simp

/-- The entry found is at its index, it offends, and no entry before it does. -/
theorem firstOffending_eq_some (bad : Byte → Bool) (start : Nat) (entries : List Byte) (k : Nat) (e : Byte) :
    firstOffending bad start entries = some (k, e) ↔
      ∃ i, k = start + i ∧ entries[i]? = some e ∧ bad e = true ∧
        ∀ j x, j < i → entries[j]? = some x → bad x = false := by
  induction entries generalizing start with
  | nil => simp [firstOffending]
  | cons x rest ih =>
    simp only [firstOffending]
    cases hx : bad x
    · rw [if_neg (by simp), ih (start + 1)]
      constructor
      · rintro ⟨i, rfl, hi, hb, hj⟩
        refine ⟨i + 1, by omega, by simpa using hi, hb, fun j y hlt hy => ?_⟩
        cases j with
        | zero =>
          obtain rfl : x = y := by simpa using hy
          exact hx
        | succ j => exact hj j y (by omega) (by simpa using hy)
      · rintro ⟨i, rfl, hi, hb, hj⟩
        cases i with
        | zero =>
          obtain rfl : x = e := by simpa using hi
          rw [hx] at hb
          simp at hb
        | succ i =>
          exact ⟨i, by omega, by simpa using hi, hb, fun j y hlt hy => hj (j + 1) y (by omega) (by simpa using hy)⟩
    · rw [if_pos rfl]
      constructor
      · intro h
        obtain ⟨rfl, rfl⟩ : start = k ∧ x = e := by simpa using h
        exact ⟨0, by omega, by simp, hx, fun j y hlt _ => absurd hlt (by omega)⟩
      · rintro ⟨i, rfl, hi, _, hj⟩
        cases i with
        | zero =>
          obtain rfl : x = e := by simpa using hi
          simp
        | succ i =>
          have := hj 0 x (by omega) (by simp)
          rw [hx] at this
          simp at this

/-- What is already written stands after the groups still to be written. -/
theorem fillGroups_append (j v : Nat) (written : List Group) :
    fillGroups j v written = fillGroups j v [] ++ written := by
  induction j generalizing v written with
  | zero => rfl
  | succ j ih =>
    simp only [fillGroups]
    rw [ih _ (_ :: written), ih _ [_], List.append_assoc]
    rfl

/-- Fuel beyond what the value needs changes nothing. -/
theorem lowBytes_fuel (v : Nat) : ∀ n m, v < 2 ^ n → v < 2 ^ m → lowBytes n v = lowBytes m v := by
  induction v using Nat.strongRecOn with
  | ind v ih =>
    intro n m hn hm
    by_cases hv : v = 0
    · subst hv
      cases n <;> cases m <;> simp [lowBytes]
    · cases n with
      | zero => exact absurd hn (by omega)
      | succ n =>
        cases m with
        | zero => exact absurd hm (by omega)
        | succ m =>
          simp only [lowBytes, if_neg hv]
          congr 1
          have hs : v >>> 8 = v / 256 := by rw [Nat.shiftRight_eq_div_pow]
          rw [Nat.pow_succ] at hn hm
          exact ih (v >>> 8) (by omega) n m (by omega) (by omega)

end Sys2Proof.Machine
end

