-- ==== Sys2Proof/Laws/Decode.lean ====
section
/-! SUPPORT. The fields of a CMD word, and the offsets of the window. -/

namespace Sys2Proof

@[simp] theorem cmdStart_cmdWord (rsv : BitVec 27) (nullin : Bool) (op : BitVec 3) (start : Bool) :
    cmdStart (cmdWord rsv nullin op start) = start := by
  simp [cmdStart, cmdWord]

@[simp] theorem cmdNullin_cmdWord (rsv : BitVec 27) (nullin : Bool) (op : BitVec 3) (start : Bool) :
    cmdNullin (cmdWord rsv nullin op start) = nullin := by
  simp [cmdNullin, cmdWord]

@[simp] theorem cmdOp_cmdWord (rsv : BitVec 27) (nullin : Bool) (op : BitVec 3) (start : Bool) :
    cmdOp (cmdWord rsv nullin op start) = op := by
  unfold cmdOp cmdWord
  ext i hi
  obtain rfl | rfl | rfl : i = 0 ∨ i = 1 ∨ i = 2 := by omega
  all_goals simp [BitVec.getLsbD_eq_getElem]

@[simp] theorem cmdRsv_cmdWord (rsv : BitVec 27) (nullin : Bool) (op : BitVec 3) (start : Bool) :
    cmdRsv (cmdWord rsv nullin op start) = rsv := by
  unfold cmdRsv cmdWord
  ext i hi
  have h1 : ¬ 5 + i < 4 := by omega
  have h2 : ¬ 5 + i < 1 := by omega
  have h3 : 5 + i - 1 = i + 4 := by omega
  have h4 : 5 + i - 4 = i + 1 := by omega
  have h5 : 5 + i < 32 := by omega
  simp [BitVec.getLsbD_eq_getElem, hi, h1, h2, h3, h4, h5]

@[simp] theorem cmdStart_shift (rest : BitVec 31) : cmdStart (rest.setWidth 32 <<< 1) = false := by
  simp [cmdStart]

theorem extract_shift (rest : BitVec 31) :
    (rest.setWidth 32 <<< 1).extractLsb' 1 31 = rest := by
  ext i hi
  have h1 : 1 + i < 32 := by omega
  simp [BitVec.getLsbD_eq_getElem, hi, h1]

@[simp] theorem windowOffset_base (page : Nat) (off : Offset) :
    windowOffset page (Config.base page + off.toNat) = some off := by
  have h := off.isLt
  have hw : Config.base page ≤ Config.base page + off.toNat ∧
      Config.base page + off.toNat < Config.base page + Config.window :=
    ⟨by omega, by simp only [Config.window]; omega⟩
  rw [windowOffset, if_pos hw, Nat.add_sub_cancel_left, BitVec.ofNat_toNat, BitVec.setWidth_eq]

/-- A 32-bit write to CMD decodes as its command word. -/
@[simp] theorem decode_cmdWrite (page : Nat) (w : Word) :
    decode page (cmdWrite page w) = .instr (decodeCmd w) := by
  have h : windowOffset page (Config.base page + 0x004) = some 0x004#12 := windowOffset_base page 0x004#12
  simp [decode, cmdWrite, h]

end Sys2Proof
end

