-- ==== Sys2Proof/Laws/Operands.lean ====
section
/-! SUPPORT. The places of the address map. -/

namespace Sys2Proof.Machine

@[simp] theorem locate_inEntry (i : Index) : locate (BitVec.ofNat 12 (0x400 + 4 * i.toNat)) = .inEntry i := by
  have h := i.isLt
  have e : (BitVec.ofNat 12 (0x400 + 4 * i.toNat)).toNat = 0x400 + 4 * i.toNat := by
    simp only [BitVec.toNat_ofNat]
    omega
  rw [locate, e, if_neg (by omega), if_pos (by omega), show (0x400 + 4 * i.toNat - 0x400) / 4 = i.toNat by omega,
    BitVec.ofNat_toNat, BitVec.setWidth_eq]

@[simp] theorem locate_outEntry (i : Index) : locate (BitVec.ofNat 12 (0x800 + 4 * i.toNat)) = .outEntry i := by
  have h := i.isLt
  have e : (BitVec.ofNat 12 (0x800 + 4 * i.toNat)).toNat = 0x800 + 4 * i.toNat := by
    simp only [BitVec.toNat_ofNat]
    omega
  rw [locate, e, if_neg (by omega), if_neg (by omega), if_pos (by omega),
    show (0x800 + 4 * i.toNat - 0x800) / 4 = i.toNat by omega, BitVec.ofNat_toNat, BitVec.setWidth_eq]

/-- An aligned offset that the map leaves to nothing is reserved. -/
theorem locate_reserved (off : Offset)
    (h : 0x01C ≤ off.toNat ∧ off.toNat < 0x400 ∨ 0xC00 ≤ off.toNat) : locate off = .reserved off := by
  unfold locate
  split
  · have ne : ∀ k : Offset, k.toNat < 0x01C → off ≠ k := by
      rintro k hk rfl
      omega
    rw [if_neg (ne _ (by decide)), if_neg (ne _ (by decide)), if_neg (ne _ (by decide)),
      if_neg (ne _ (by decide)), if_neg (ne _ (by decide)), if_neg (ne _ (by decide)),
      if_neg (ne _ (by decide))]
  · rw [if_neg (by omega), if_neg (by omega)]

/-- An access is performed exactly when it is 32 bits wide at a multiple of 4. -/
theorem accessOk_iff (off : Offset) (width : Nat) :
    accessOk off width = true ↔ width = 32 ∧ off.toNat % 4 = 0 := by
  simp only [accessOk, Config.busWidth, Bool.and_eq_true, beq_iff_eq]

theorem accessOk_false_iff (off : Offset) (width : Nat) :
    accessOk off width = false ↔ width ≠ 32 ∨ off.toNat % 4 ≠ 0 := by
  rw [← Bool.not_eq_true, accessOk_iff]
  omega

theorem accessOk_inEntry (i : Index) : accessOk (BitVec.ofNat 12 (0x400 + 4 * i.toNat)) 32 = true := by
  have h := i.isLt
  rw [accessOk_iff, BitVec.toNat_ofNat]
  omega

theorem accessOk_outEntry (i : Index) : accessOk (BitVec.ofNat 12 (0x800 + 4 * i.toNat)) 32 = true := by
  have h := i.isLt
  rw [accessOk_iff, BitVec.toNat_ofNat]
  omega

/-- A performed read of a place that holds a value answers it and changes nothing. -/
theorem execRd_value {off : Offset} {s : State} {w : Word} (ha : accessOk off 32 = true)
    (h : s.readWord (locate off) = some w) : execRd off 32 s = .next (s.respond (.data w)) := by
  simp [execRd, ha, h]

/-- A performed read of an entry that holds no value answers a free byte. -/
theorem execRd_free {off : Offset} {s : State} (ha : accessOk off 32 = true)
    (h : s.readWord (locate off) = none) : execRd off 32 s = .next s.respondFree := by
  simp [execRd, ha, h]

/-- A performed write answers the state its place's rule gives. -/
theorem execWr_performed {off : Offset} {v : Word} {s : State} (ha : accessOk off 32 = true) :
    execWr off 32 v s = .next ((s.writeWord v (locate off)).respond .written) := by
  simp [execWr, ha]

end Sys2Proof.Machine
end

