-- ==== Sys2Proof/Laws/State.lean ====
section
/-! SUPPORT. One lemma per field per update of State, each true by rfl, so that no proof unfolds an update. -/

namespace Sys2Proof.Machine

variable (s : State)

/-! ### `State.clearStatus` -/

@[simp] theorem State.clearStatus_busy (v : Word) : (s.clearStatus v).busy = s.busy := rfl
@[simp] theorem State.clearStatus_done (v : Word) : (s.clearStatus v).done = (s.done && !v.getLsbD 1) := rfl
@[simp] theorem State.clearStatus_err (v : Word) : (s.clearStatus v).err = s.err := rfl
@[simp] theorem State.clearStatus_wbusy (v : Word) : (s.clearStatus v).wbusy = (s.wbusy && !v.getLsbD 8) := rfl
@[simp] theorem State.clearStatus_errCode (v : Word) : (s.clearStatus v).errCode = s.errCode := rfl
@[simp] theorem State.clearStatus_intEn (v : Word) : (s.clearStatus v).intEn = s.intEn := rfl
@[simp] theorem State.clearStatus_inLen (v : Word) : (s.clearStatus v).inLen = s.inLen := rfl
@[simp] theorem State.clearStatus_outLen (v : Word) : (s.clearStatus v).outLen = s.outLen := rfl
@[simp] theorem State.clearStatus_errIndex (v : Word) : (s.clearStatus v).errIndex = s.errIndex := rfl
@[simp] theorem State.clearStatus_errValue (v : Word) : (s.clearStatus v).errValue = s.errValue := rfl
@[simp] theorem State.clearStatus_inBuf (v : Word) : (s.clearStatus v).inBuf = s.inBuf := rfl
@[simp] theorem State.clearStatus_outBuf (v : Word) : (s.clearStatus v).outBuf = s.outBuf := rfl
@[simp] theorem State.clearStatus_latchOp (v : Word) : (s.clearStatus v).latchOp = s.latchOp := rfl
@[simp] theorem State.clearStatus_latchNullin (v : Word) : (s.clearStatus v).latchNullin = s.latchNullin := rfl
@[simp] theorem State.clearStatus_latchRsv (v : Word) : (s.clearStatus v).latchRsv = s.latchRsv := rfl
@[simp] theorem State.clearStatus_params (v : Word) : (s.clearStatus v).params = s.params := rfl
@[simp] theorem State.clearStatus_agenda (v : Word) : (s.clearStatus v).agenda = s.agenda := rfl
@[simp] theorem State.clearStatus_resp (v : Word) : (s.clearStatus v).resp = s.resp := rfl
@[simp] theorem State.clearStatus_draws (v : Word) : (s.clearStatus v).draws = s.draws := rfl

/-! ### `State.setIntEn` -/

@[simp] theorem State.setIntEn_busy (v : Word) : (s.setIntEn v).busy = s.busy := rfl
@[simp] theorem State.setIntEn_done (v : Word) : (s.setIntEn v).done = s.done := rfl
@[simp] theorem State.setIntEn_err (v : Word) : (s.setIntEn v).err = s.err := rfl
@[simp] theorem State.setIntEn_wbusy (v : Word) : (s.setIntEn v).wbusy = s.wbusy := rfl
@[simp] theorem State.setIntEn_errCode (v : Word) : (s.setIntEn v).errCode = s.errCode := rfl
@[simp] theorem State.setIntEn_intEn (v : Word) : (s.setIntEn v).intEn = v.getLsbD 0 := rfl
@[simp] theorem State.setIntEn_inLen (v : Word) : (s.setIntEn v).inLen = s.inLen := rfl
@[simp] theorem State.setIntEn_outLen (v : Word) : (s.setIntEn v).outLen = s.outLen := rfl
@[simp] theorem State.setIntEn_errIndex (v : Word) : (s.setIntEn v).errIndex = s.errIndex := rfl
@[simp] theorem State.setIntEn_errValue (v : Word) : (s.setIntEn v).errValue = s.errValue := rfl
@[simp] theorem State.setIntEn_inBuf (v : Word) : (s.setIntEn v).inBuf = s.inBuf := rfl
@[simp] theorem State.setIntEn_outBuf (v : Word) : (s.setIntEn v).outBuf = s.outBuf := rfl
@[simp] theorem State.setIntEn_latchOp (v : Word) : (s.setIntEn v).latchOp = s.latchOp := rfl
@[simp] theorem State.setIntEn_latchNullin (v : Word) : (s.setIntEn v).latchNullin = s.latchNullin := rfl
@[simp] theorem State.setIntEn_latchRsv (v : Word) : (s.setIntEn v).latchRsv = s.latchRsv := rfl
@[simp] theorem State.setIntEn_params (v : Word) : (s.setIntEn v).params = s.params := rfl
@[simp] theorem State.setIntEn_agenda (v : Word) : (s.setIntEn v).agenda = s.agenda := rfl
@[simp] theorem State.setIntEn_resp (v : Word) : (s.setIntEn v).resp = s.resp := rfl
@[simp] theorem State.setIntEn_draws (v : Word) : (s.setIntEn v).draws = s.draws := rfl

/-! ### `State.ignoreWrite` -/

@[simp] theorem State.ignoreWrite_busy : (s.ignoreWrite).busy = s.busy := rfl
@[simp] theorem State.ignoreWrite_done : (s.ignoreWrite).done = s.done := rfl
@[simp] theorem State.ignoreWrite_err : (s.ignoreWrite).err = s.err := rfl
@[simp] theorem State.ignoreWrite_wbusy : (s.ignoreWrite).wbusy = true := rfl
@[simp] theorem State.ignoreWrite_errCode : (s.ignoreWrite).errCode = s.errCode := rfl
@[simp] theorem State.ignoreWrite_intEn : (s.ignoreWrite).intEn = s.intEn := rfl
@[simp] theorem State.ignoreWrite_inLen : (s.ignoreWrite).inLen = s.inLen := rfl
@[simp] theorem State.ignoreWrite_outLen : (s.ignoreWrite).outLen = s.outLen := rfl
@[simp] theorem State.ignoreWrite_errIndex : (s.ignoreWrite).errIndex = s.errIndex := rfl
@[simp] theorem State.ignoreWrite_errValue : (s.ignoreWrite).errValue = s.errValue := rfl
@[simp] theorem State.ignoreWrite_inBuf : (s.ignoreWrite).inBuf = s.inBuf := rfl
@[simp] theorem State.ignoreWrite_outBuf : (s.ignoreWrite).outBuf = s.outBuf := rfl
@[simp] theorem State.ignoreWrite_latchOp : (s.ignoreWrite).latchOp = s.latchOp := rfl
@[simp] theorem State.ignoreWrite_latchNullin : (s.ignoreWrite).latchNullin = s.latchNullin := rfl
@[simp] theorem State.ignoreWrite_latchRsv : (s.ignoreWrite).latchRsv = s.latchRsv := rfl
@[simp] theorem State.ignoreWrite_params : (s.ignoreWrite).params = s.params := rfl
@[simp] theorem State.ignoreWrite_agenda : (s.ignoreWrite).agenda = s.agenda := rfl
@[simp] theorem State.ignoreWrite_resp : (s.ignoreWrite).resp = s.resp := rfl
@[simp] theorem State.ignoreWrite_draws : (s.ignoreWrite).draws = s.draws := rfl

/-! ### `State.respond` -/

@[simp] theorem State.respond_busy (r : Resp) : (s.respond r).busy = s.busy := rfl
@[simp] theorem State.respond_done (r : Resp) : (s.respond r).done = s.done := rfl
@[simp] theorem State.respond_err (r : Resp) : (s.respond r).err = s.err := rfl
@[simp] theorem State.respond_wbusy (r : Resp) : (s.respond r).wbusy = s.wbusy := rfl
@[simp] theorem State.respond_errCode (r : Resp) : (s.respond r).errCode = s.errCode := rfl
@[simp] theorem State.respond_intEn (r : Resp) : (s.respond r).intEn = s.intEn := rfl
@[simp] theorem State.respond_inLen (r : Resp) : (s.respond r).inLen = s.inLen := rfl
@[simp] theorem State.respond_outLen (r : Resp) : (s.respond r).outLen = s.outLen := rfl
@[simp] theorem State.respond_errIndex (r : Resp) : (s.respond r).errIndex = s.errIndex := rfl
@[simp] theorem State.respond_errValue (r : Resp) : (s.respond r).errValue = s.errValue := rfl
@[simp] theorem State.respond_inBuf (r : Resp) : (s.respond r).inBuf = s.inBuf := rfl
@[simp] theorem State.respond_outBuf (r : Resp) : (s.respond r).outBuf = s.outBuf := rfl
@[simp] theorem State.respond_latchOp (r : Resp) : (s.respond r).latchOp = s.latchOp := rfl
@[simp] theorem State.respond_latchNullin (r : Resp) : (s.respond r).latchNullin = s.latchNullin := rfl
@[simp] theorem State.respond_latchRsv (r : Resp) : (s.respond r).latchRsv = s.latchRsv := rfl
@[simp] theorem State.respond_params (r : Resp) : (s.respond r).params = s.params := rfl
@[simp] theorem State.respond_agenda (r : Resp) : (s.respond r).agenda = s.agenda := rfl
@[simp] theorem State.respond_resp (r : Resp) : (s.respond r).resp = some r := rfl
@[simp] theorem State.respond_draws (r : Resp) : (s.respond r).draws = s.draws := rfl

/-! ### `State.respondFree` -/

@[simp] theorem State.respondFree_busy : (s.respondFree).busy = s.busy := rfl
@[simp] theorem State.respondFree_done : (s.respondFree).done = s.done := rfl
@[simp] theorem State.respondFree_err : (s.respondFree).err = s.err := rfl
@[simp] theorem State.respondFree_wbusy : (s.respondFree).wbusy = s.wbusy := rfl
@[simp] theorem State.respondFree_errCode : (s.respondFree).errCode = s.errCode := rfl
@[simp] theorem State.respondFree_intEn : (s.respondFree).intEn = s.intEn := rfl
@[simp] theorem State.respondFree_inLen : (s.respondFree).inLen = s.inLen := rfl
@[simp] theorem State.respondFree_outLen : (s.respondFree).outLen = s.outLen := rfl
@[simp] theorem State.respondFree_errIndex : (s.respondFree).errIndex = s.errIndex := rfl
@[simp] theorem State.respondFree_errValue : (s.respondFree).errValue = s.errValue := rfl
@[simp] theorem State.respondFree_inBuf : (s.respondFree).inBuf = s.inBuf := rfl
@[simp] theorem State.respondFree_outBuf : (s.respondFree).outBuf = s.outBuf := rfl
@[simp] theorem State.respondFree_latchOp : (s.respondFree).latchOp = s.latchOp := rfl
@[simp] theorem State.respondFree_latchNullin : (s.respondFree).latchNullin = s.latchNullin := rfl
@[simp] theorem State.respondFree_latchRsv : (s.respondFree).latchRsv = s.latchRsv := rfl
@[simp] theorem State.respondFree_params : (s.respondFree).params = s.params := rfl
@[simp] theorem State.respondFree_agenda : (s.respondFree).agenda = s.agenda := rfl
@[simp] theorem State.respondFree_resp : (s.respondFree).resp = some (.data ((Config.freeByte s.draws).setWidth 32)) := rfl
@[simp] theorem State.respondFree_draws : (s.respondFree).draws = s.draws + 1 := rfl

/-! ### `State.writeInput` -/

@[simp] theorem State.writeInput_busy (i : Index) (v : Word) : (s.writeInput i v).busy = s.busy := rfl
@[simp] theorem State.writeInput_done (i : Index) (v : Word) : (s.writeInput i v).done = s.done := rfl
@[simp] theorem State.writeInput_err (i : Index) (v : Word) : (s.writeInput i v).err = s.err := rfl
@[simp] theorem State.writeInput_wbusy (i : Index) (v : Word) : (s.writeInput i v).wbusy = s.wbusy := rfl
@[simp] theorem State.writeInput_errCode (i : Index) (v : Word) : (s.writeInput i v).errCode = s.errCode := rfl
@[simp] theorem State.writeInput_intEn (i : Index) (v : Word) : (s.writeInput i v).intEn = s.intEn := rfl
@[simp] theorem State.writeInput_inLen (i : Index) (v : Word) : (s.writeInput i v).inLen = s.inLen := rfl
@[simp] theorem State.writeInput_outLen (i : Index) (v : Word) : (s.writeInput i v).outLen = s.outLen := rfl
@[simp] theorem State.writeInput_errIndex (i : Index) (v : Word) : (s.writeInput i v).errIndex = s.errIndex := rfl
@[simp] theorem State.writeInput_errValue (i : Index) (v : Word) : (s.writeInput i v).errValue = s.errValue := rfl
@[simp] theorem State.writeInput_inBuf (i : Index) (v : Word) : (s.writeInput i v).inBuf = s.inBuf.write i.toNat (v.setWidth 8) := rfl
@[simp] theorem State.writeInput_outBuf (i : Index) (v : Word) : (s.writeInput i v).outBuf = s.outBuf := rfl
@[simp] theorem State.writeInput_latchOp (i : Index) (v : Word) : (s.writeInput i v).latchOp = s.latchOp := rfl
@[simp] theorem State.writeInput_latchNullin (i : Index) (v : Word) : (s.writeInput i v).latchNullin = s.latchNullin := rfl
@[simp] theorem State.writeInput_latchRsv (i : Index) (v : Word) : (s.writeInput i v).latchRsv = s.latchRsv := rfl
@[simp] theorem State.writeInput_params (i : Index) (v : Word) : (s.writeInput i v).params = s.params := rfl
@[simp] theorem State.writeInput_agenda (i : Index) (v : Word) : (s.writeInput i v).agenda = s.agenda := rfl
@[simp] theorem State.writeInput_resp (i : Index) (v : Word) : (s.writeInput i v).resp = s.resp := rfl
@[simp] theorem State.writeInput_draws (i : Index) (v : Word) : (s.writeInput i v).draws = s.draws := rfl

/-! ### `State.setInLen` -/

@[simp] theorem State.setInLen_busy (v : Word) : (s.setInLen v).busy = s.busy := rfl
@[simp] theorem State.setInLen_done (v : Word) : (s.setInLen v).done = s.done := rfl
@[simp] theorem State.setInLen_err (v : Word) : (s.setInLen v).err = s.err := rfl
@[simp] theorem State.setInLen_wbusy (v : Word) : (s.setInLen v).wbusy = s.wbusy := rfl
@[simp] theorem State.setInLen_errCode (v : Word) : (s.setInLen v).errCode = s.errCode := rfl
@[simp] theorem State.setInLen_intEn (v : Word) : (s.setInLen v).intEn = s.intEn := rfl
@[simp] theorem State.setInLen_inLen (v : Word) : (s.setInLen v).inLen = v.setWidth 9 := rfl
@[simp] theorem State.setInLen_outLen (v : Word) : (s.setInLen v).outLen = s.outLen := rfl
@[simp] theorem State.setInLen_errIndex (v : Word) : (s.setInLen v).errIndex = s.errIndex := rfl
@[simp] theorem State.setInLen_errValue (v : Word) : (s.setInLen v).errValue = s.errValue := rfl
@[simp] theorem State.setInLen_inBuf (v : Word) : (s.setInLen v).inBuf = s.inBuf := rfl
@[simp] theorem State.setInLen_outBuf (v : Word) : (s.setInLen v).outBuf = s.outBuf := rfl
@[simp] theorem State.setInLen_latchOp (v : Word) : (s.setInLen v).latchOp = s.latchOp := rfl
@[simp] theorem State.setInLen_latchNullin (v : Word) : (s.setInLen v).latchNullin = s.latchNullin := rfl
@[simp] theorem State.setInLen_latchRsv (v : Word) : (s.setInLen v).latchRsv = s.latchRsv := rfl
@[simp] theorem State.setInLen_params (v : Word) : (s.setInLen v).params = s.params := rfl
@[simp] theorem State.setInLen_agenda (v : Word) : (s.setInLen v).agenda = s.agenda := rfl
@[simp] theorem State.setInLen_resp (v : Word) : (s.setInLen v).resp = s.resp := rfl
@[simp] theorem State.setInLen_draws (v : Word) : (s.setInLen v).draws = s.draws := rfl

/-! ### `State.start` -/

@[simp] theorem State.start_busy (op : BitVec 3) (nullin rsv : Bool) : (s.start op nullin rsv).busy = true := rfl
@[simp] theorem State.start_done (op : BitVec 3) (nullin rsv : Bool) : (s.start op nullin rsv).done = false := rfl
@[simp] theorem State.start_err (op : BitVec 3) (nullin rsv : Bool) : (s.start op nullin rsv).err = false := rfl
@[simp] theorem State.start_wbusy (op : BitVec 3) (nullin rsv : Bool) : (s.start op nullin rsv).wbusy = false := rfl
@[simp] theorem State.start_errCode (op : BitVec 3) (nullin rsv : Bool) : (s.start op nullin rsv).errCode = 0#3 := rfl
@[simp] theorem State.start_intEn (op : BitVec 3) (nullin rsv : Bool) : (s.start op nullin rsv).intEn = s.intEn := rfl
@[simp] theorem State.start_inLen (op : BitVec 3) (nullin rsv : Bool) : (s.start op nullin rsv).inLen = s.inLen := rfl
@[simp] theorem State.start_outLen (op : BitVec 3) (nullin rsv : Bool) : (s.start op nullin rsv).outLen = 0#9 := rfl
@[simp] theorem State.start_errIndex (op : BitVec 3) (nullin rsv : Bool) : (s.start op nullin rsv).errIndex = 0#8 := rfl
@[simp] theorem State.start_errValue (op : BitVec 3) (nullin rsv : Bool) : (s.start op nullin rsv).errValue = 0#8 := rfl
@[simp] theorem State.start_inBuf (op : BitVec 3) (nullin rsv : Bool) : (s.start op nullin rsv).inBuf = s.inBuf := rfl
@[simp] theorem State.start_outBuf (op : BitVec 3) (nullin rsv : Bool) : (s.start op nullin rsv).outBuf = [] := rfl
@[simp] theorem State.start_latchOp (op : BitVec 3) (nullin rsv : Bool) : (s.start op nullin rsv).latchOp = op := rfl
@[simp] theorem State.start_latchNullin (op : BitVec 3) (nullin rsv : Bool) : (s.start op nullin rsv).latchNullin = nullin := rfl
@[simp] theorem State.start_latchRsv (op : BitVec 3) (nullin rsv : Bool) : (s.start op nullin rsv).latchRsv = rsv := rfl
@[simp] theorem State.start_params (op : BitVec 3) (nullin rsv : Bool) : (s.start op nullin rsv).params = s.params := rfl
@[simp] theorem State.start_agenda (op : BitVec 3) (nullin rsv : Bool) : (s.start op nullin rsv).agenda = s.agenda := rfl
@[simp] theorem State.start_resp (op : BitVec 3) (nullin rsv : Bool) : (s.start op nullin rsv).resp = s.resp := rfl
@[simp] theorem State.start_draws (op : BitVec 3) (nullin rsv : Bool) : (s.start op nullin rsv).draws = s.draws := rfl

/-! ### `State.commitOk` -/

@[simp] theorem State.commitOk_busy (out : List Byte) : (s.commitOk out).busy = false := rfl
@[simp] theorem State.commitOk_done (out : List Byte) : (s.commitOk out).done = true := rfl
@[simp] theorem State.commitOk_err (out : List Byte) : (s.commitOk out).err = false := rfl
@[simp] theorem State.commitOk_wbusy (out : List Byte) : (s.commitOk out).wbusy = s.wbusy := rfl
@[simp] theorem State.commitOk_errCode (out : List Byte) : (s.commitOk out).errCode = 0#3 := rfl
@[simp] theorem State.commitOk_intEn (out : List Byte) : (s.commitOk out).intEn = s.intEn := rfl
@[simp] theorem State.commitOk_inLen (out : List Byte) : (s.commitOk out).inLen = s.inLen := rfl
@[simp] theorem State.commitOk_outLen (out : List Byte) : (s.commitOk out).outLen = BitVec.ofNat 9 out.length := rfl
@[simp] theorem State.commitOk_errIndex (out : List Byte) : (s.commitOk out).errIndex = 0#8 := rfl
@[simp] theorem State.commitOk_errValue (out : List Byte) : (s.commitOk out).errValue = 0#8 := rfl
@[simp] theorem State.commitOk_inBuf (out : List Byte) : (s.commitOk out).inBuf = s.inBuf := rfl
@[simp] theorem State.commitOk_outBuf (out : List Byte) : (s.commitOk out).outBuf = Memory.fill 0 out := rfl
@[simp] theorem State.commitOk_latchOp (out : List Byte) : (s.commitOk out).latchOp = s.latchOp := rfl
@[simp] theorem State.commitOk_latchNullin (out : List Byte) : (s.commitOk out).latchNullin = s.latchNullin := rfl
@[simp] theorem State.commitOk_latchRsv (out : List Byte) : (s.commitOk out).latchRsv = s.latchRsv := rfl
@[simp] theorem State.commitOk_params (out : List Byte) : (s.commitOk out).params = s.params := rfl
@[simp] theorem State.commitOk_agenda (out : List Byte) : (s.commitOk out).agenda = s.agenda := rfl
@[simp] theorem State.commitOk_resp (out : List Byte) : (s.commitOk out).resp = s.resp := rfl
@[simp] theorem State.commitOk_draws (out : List Byte) : (s.commitOk out).draws = s.draws := rfl

/-! ### `State.commitErr` -/

@[simp] theorem State.commitErr_busy (kind : ErrKind) (index value : Byte) : (s.commitErr kind index value).busy = false := rfl
@[simp] theorem State.commitErr_done (kind : ErrKind) (index value : Byte) : (s.commitErr kind index value).done = true := rfl
@[simp] theorem State.commitErr_err (kind : ErrKind) (index value : Byte) : (s.commitErr kind index value).err = true := rfl
@[simp] theorem State.commitErr_wbusy (kind : ErrKind) (index value : Byte) : (s.commitErr kind index value).wbusy = s.wbusy := rfl
@[simp] theorem State.commitErr_errCode (kind : ErrKind) (index value : Byte) : (s.commitErr kind index value).errCode = kind.code := rfl
@[simp] theorem State.commitErr_intEn (kind : ErrKind) (index value : Byte) : (s.commitErr kind index value).intEn = s.intEn := rfl
@[simp] theorem State.commitErr_inLen (kind : ErrKind) (index value : Byte) : (s.commitErr kind index value).inLen = s.inLen := rfl
@[simp] theorem State.commitErr_outLen (kind : ErrKind) (index value : Byte) : (s.commitErr kind index value).outLen = 0#9 := rfl
@[simp] theorem State.commitErr_errIndex (kind : ErrKind) (index value : Byte) : (s.commitErr kind index value).errIndex = index := rfl
@[simp] theorem State.commitErr_errValue (kind : ErrKind) (index value : Byte) : (s.commitErr kind index value).errValue = value := rfl
@[simp] theorem State.commitErr_inBuf (kind : ErrKind) (index value : Byte) : (s.commitErr kind index value).inBuf = s.inBuf := rfl
@[simp] theorem State.commitErr_outBuf (kind : ErrKind) (index value : Byte) : (s.commitErr kind index value).outBuf = [] := rfl
@[simp] theorem State.commitErr_latchOp (kind : ErrKind) (index value : Byte) : (s.commitErr kind index value).latchOp = s.latchOp := rfl
@[simp] theorem State.commitErr_latchNullin (kind : ErrKind) (index value : Byte) : (s.commitErr kind index value).latchNullin = s.latchNullin := rfl
@[simp] theorem State.commitErr_latchRsv (kind : ErrKind) (index value : Byte) : (s.commitErr kind index value).latchRsv = s.latchRsv := rfl
@[simp] theorem State.commitErr_params (kind : ErrKind) (index value : Byte) : (s.commitErr kind index value).params = s.params := rfl
@[simp] theorem State.commitErr_agenda (kind : ErrKind) (index value : Byte) : (s.commitErr kind index value).agenda = s.agenda := rfl
@[simp] theorem State.commitErr_resp (kind : ErrKind) (index value : Byte) : (s.commitErr kind index value).resp = s.resp := rfl
@[simp] theorem State.commitErr_draws (kind : ErrKind) (index value : Byte) : (s.commitErr kind index value).draws = s.draws := rfl

/-! ### `State.withAgenda` -/

@[simp] theorem State.withAgenda_busy (a : List Event) : (s.withAgenda a).busy = s.busy := rfl
@[simp] theorem State.withAgenda_done (a : List Event) : (s.withAgenda a).done = s.done := rfl
@[simp] theorem State.withAgenda_err (a : List Event) : (s.withAgenda a).err = s.err := rfl
@[simp] theorem State.withAgenda_wbusy (a : List Event) : (s.withAgenda a).wbusy = s.wbusy := rfl
@[simp] theorem State.withAgenda_errCode (a : List Event) : (s.withAgenda a).errCode = s.errCode := rfl
@[simp] theorem State.withAgenda_intEn (a : List Event) : (s.withAgenda a).intEn = s.intEn := rfl
@[simp] theorem State.withAgenda_inLen (a : List Event) : (s.withAgenda a).inLen = s.inLen := rfl
@[simp] theorem State.withAgenda_outLen (a : List Event) : (s.withAgenda a).outLen = s.outLen := rfl
@[simp] theorem State.withAgenda_errIndex (a : List Event) : (s.withAgenda a).errIndex = s.errIndex := rfl
@[simp] theorem State.withAgenda_errValue (a : List Event) : (s.withAgenda a).errValue = s.errValue := rfl
@[simp] theorem State.withAgenda_inBuf (a : List Event) : (s.withAgenda a).inBuf = s.inBuf := rfl
@[simp] theorem State.withAgenda_outBuf (a : List Event) : (s.withAgenda a).outBuf = s.outBuf := rfl
@[simp] theorem State.withAgenda_latchOp (a : List Event) : (s.withAgenda a).latchOp = s.latchOp := rfl
@[simp] theorem State.withAgenda_latchNullin (a : List Event) : (s.withAgenda a).latchNullin = s.latchNullin := rfl
@[simp] theorem State.withAgenda_latchRsv (a : List Event) : (s.withAgenda a).latchRsv = s.latchRsv := rfl
@[simp] theorem State.withAgenda_params (a : List Event) : (s.withAgenda a).params = s.params := rfl
@[simp] theorem State.withAgenda_agenda (a : List Event) : (s.withAgenda a).agenda = a := rfl
@[simp] theorem State.withAgenda_resp (a : List Event) : (s.withAgenda a).resp = s.resp := rfl
@[simp] theorem State.withAgenda_draws (a : List Event) : (s.withAgenda a).draws = s.draws := rfl

/-! ### `State.applyReset` -/

@[simp] theorem State.applyReset_busy : (s.applyReset).busy = false := rfl
@[simp] theorem State.applyReset_done : (s.applyReset).done = false := rfl
@[simp] theorem State.applyReset_err : (s.applyReset).err = false := rfl
@[simp] theorem State.applyReset_wbusy : (s.applyReset).wbusy = false := rfl
@[simp] theorem State.applyReset_errCode : (s.applyReset).errCode = 0#3 := rfl
@[simp] theorem State.applyReset_intEn : (s.applyReset).intEn = false := rfl
@[simp] theorem State.applyReset_inLen : (s.applyReset).inLen = 0#9 := rfl
@[simp] theorem State.applyReset_outLen : (s.applyReset).outLen = 0#9 := rfl
@[simp] theorem State.applyReset_errIndex : (s.applyReset).errIndex = 0#8 := rfl
@[simp] theorem State.applyReset_errValue : (s.applyReset).errValue = 0#8 := rfl
@[simp] theorem State.applyReset_inBuf : (s.applyReset).inBuf = [] := rfl
@[simp] theorem State.applyReset_outBuf : (s.applyReset).outBuf = [] := rfl
@[simp] theorem State.applyReset_latchOp : (s.applyReset).latchOp = 0#3 := rfl
@[simp] theorem State.applyReset_latchNullin : (s.applyReset).latchNullin = false := rfl
@[simp] theorem State.applyReset_latchRsv : (s.applyReset).latchRsv = false := rfl
@[simp] theorem State.applyReset_params : (s.applyReset).params = s.params := rfl
@[simp] theorem State.applyReset_agenda : (s.applyReset).agenda = s.agenda := rfl
@[simp] theorem State.applyReset_resp : (s.applyReset).resp = none := rfl
@[simp] theorem State.applyReset_draws : (s.applyReset).draws = s.draws := rfl

end Sys2Proof.Machine
end

