-- ==== Sys2Proof/Laws/Ops.lean ====
section
/-! SUPPORT. One lemma per shared operation that says once everything it can do. -/

namespace Sys2Proof.Machine

/-- A CMD write with bit 0 set: START when idle, else only WBUSY. -/
theorem State.issue_cases (op : BitVec 3) (nullin rsv : Bool) (s : State) :
    (s.busy = false ∧ s.issue op nullin rsv = s.start op nullin rsv) ∨
    (s.busy = true ∧ s.issue op nullin rsv = s.ignoreWrite) := by
  unfold State.issue
  cases h : s.busy <;> simp

theorem State.command_idle {s : State} (h : s.busy = false) (op : BitVec 3) (nullin rsv : Bool) :
    s.command op nullin rsv = (s.start op nullin rsv).respond .written := by
  simp [State.command, State.issue, h]

theorem State.command_busy {s : State} (h : s.busy = true) (op : BitVec 3) (nullin rsv : Bool) :
    s.command op nullin rsv = s.ignoreWrite.respond .written := by
  simp [State.command, State.issue, h]

/-- What a write to CMD can do: nothing, a START, or an ignored write. -/
theorem State.writeCmd_cases (v : Word) (s : State) :
    (cmdStart v = false ∧ s.writeCmd v = s) ∨
    (cmdStart v = true ∧ s.busy = false ∧
      s.writeCmd v = s.start (cmdOp v) (cmdNullin v) (cmdRsv v != 0#27)) ∨
    (cmdStart v = true ∧ s.busy = true ∧ s.writeCmd v = s.ignoreWrite) := by
  unfold State.writeCmd
  cases h : cmdStart v
  · simp
  · rcases s.issue_cases (cmdOp v) (cmdNullin v) (cmdRsv v != 0#27) with ⟨hb, hi⟩ | ⟨hb, hi⟩ <;> simp [hb, hi]

/-- Everything a write to the window can do. -/
theorem State.writeWord_cases (v : Word) (s : State) (l : Loc) :
    s.writeWord v l = s ∨
    (l = .cmd ∧ cmdStart v = true ∧ s.busy = false ∧
      s.writeWord v l = s.start (cmdOp v) (cmdNullin v) (cmdRsv v != 0#27)) ∨
    (s.busy = true ∧ s.writeWord v l = s.ignoreWrite) ∨
    (l = .status ∧ s.writeWord v l = s.clearStatus v) ∨
    (l = .intEn ∧ s.writeWord v l = s.setIntEn v) ∨
    (l = .inLen ∧ s.busy = false ∧ s.writeWord v l = s.setInLen v) ∨
    (∃ i, l = .inEntry i ∧ s.busy = false ∧ s.writeWord v l = s.writeInput i v) := by
  cases l with
  | cmd =>
    rcases s.writeCmd_cases v with ⟨_, h⟩ | ⟨hv, hb, h⟩ | ⟨_, hb, h⟩
    · exact .inl h
    · exact .inr (.inl ⟨rfl, hv, hb, h⟩)
    · exact .inr (.inr (.inl ⟨hb, h⟩))
  | status => exact .inr (.inr (.inr (.inl ⟨rfl, rfl⟩)))
  | intEn => exact .inr (.inr (.inr (.inr (.inl ⟨rfl, rfl⟩))))
  | inLen =>
    cases hb : s.busy
    · exact .inr (.inr (.inr (.inr (.inr (.inl ⟨rfl, rfl, by simp [State.writeWord, hb]⟩)))))
    · exact .inr (.inr (.inl ⟨rfl, by simp [State.writeWord, hb]⟩))
  | inEntry i =>
    cases hb : s.busy
    · exact .inr (.inr (.inr (.inr (.inr (.inr ⟨i, rfl, rfl, by simp [State.writeWord, hb]⟩)))))
    · exact .inr (.inr (.inl ⟨rfl, by simp [State.writeWord, hb]⟩))
  | id => exact .inl rfl
  | outLen => exact .inl rfl
  | errInfo => exact .inl rfl
  | outEntry _ => exact .inl rfl
  | reserved _ => exact .inl rfl

/-- Everything a read can do: answer a word, answer a free byte, or answer BusError. -/
theorem execRd_cases (off : Offset) (width : Nat) (s : State) :
    (accessOk off width = true ∧ ∃ w, s.readWord (locate off) = some w ∧
      execRd off width s = .next (s.respond (.data w))) ∨
    (accessOk off width = true ∧ s.readWord (locate off) = none ∧ execRd off width s = .next s.respondFree) ∨
    (accessOk off width = false ∧ execRd off width s = .next (s.respond .busError)) := by
  unfold execRd
  cases accessOk off width
  · simp
  · cases s.readWord (locate off) <;> simp

/-- Everything COMPLETE can do. -/
theorem complete_cases (s : State) :
    (∃ out, s.result = .ok out ∧ complete s = .next (s.commitOk out)) ∨
    (∃ kind index value, s.result = .err kind index value ∧
      complete s = .next (s.commitErr kind index value)) ∨
    (s.result = .unwritten ∧ complete s = .fault .unwrittenInput) := by
  unfold complete
  cases h : s.result with
  | ok out => exact .inl ⟨out, rfl, rfl⟩
  | err kind index value => exact .inr (.inl ⟨kind, index, value, rfl, rfl⟩)
  | unwritten => exact .inr (.inr ⟨rfl, rfl⟩)

theorem engineTurn_busy {s : State} (h : s.busy = true) : engineTurn s = complete s := by
  simp [engineTurn, h]

theorem engineTurn_idle {s : State} (h : s.busy = false) : engineTurn s = .next s := by
  simp [engineTurn, h]

/-- Everything an instruction can do, in the order of the opcode table: a START row, the no-operation, a
read, a write. -/
theorem exec_cases (i : Instr) (s : State) :
    (∃ op nullin rsv, exec i s = .next (s.command op nullin rsv)) ∨
    (∃ r, i = .nop r ∧ exec i s = .next (s.respond .written)) ∨
    (∃ off width, i = .rd off width ∧ exec i s = execRd off width s) ∨
    (∃ off width v, i = .wr off width v ∧ exec i s = execWr off width v s) := by
  cases i with
  | nop r => exact .inr (.inl ⟨r, rfl, rfl⟩)
  | rd off width => exact .inr (.inr (.inl ⟨off, width, rfl, rfl⟩))
  | wr off width v => exact .inr (.inr (.inr ⟨off, width, v, rfl, rfl⟩))
  | encRaw n => exact .inl ⟨_, _, _, rfl⟩
  | decRaw n => exact .inl ⟨_, _, _, rfl⟩
  | encSym n => exact .inl ⟨_, _, _, rfl⟩
  | decSym n => exact .inl ⟨_, _, _, rfl⟩
  | beMin n => exact .inl ⟨_, _, _, rfl⟩
  | illegalOp5 n => exact .inl ⟨_, _, _, rfl⟩
  | illegalOp6 n => exact .inl ⟨_, _, _, rfl⟩
  | illegalOp7 n => exact .inl ⟨_, _, _, rfl⟩
  | illegalRsv op n r => exact .inl ⟨_, _, _, rfl⟩

/-- The state changes an instruction makes, its answer on the bus aside. -/
inductive Effect (s : State) : State → Prop
  | none : Effect s s
  | free : Effect s s.respondFree
  | start (op : BitVec 3) (nullin rsv : Bool) : s.busy = false → Effect s (s.start op nullin rsv)
  | ignored : s.busy = true → Effect s s.ignoreWrite
  | clear (v : Word) : Effect s (s.clearStatus v)
  | enable (v : Word) : Effect s (s.setIntEn v)
  | length (v : Word) : s.busy = false → Effect s (s.setInLen v)
  | entry (i : Index) (v : Word) : s.busy = false → Effect s (s.writeInput i v)

theorem execWr_effect (off : Offset) (width : Nat) (v : Word) (s : State) :
    ∃ u r, Effect s u ∧ execWr off width v s = .next (u.respond r) := by
  unfold execWr
  split
  · refine ⟨s.writeWord v (locate off), .written, ?_, rfl⟩
    rcases s.writeWord_cases v (locate off) with
      h | ⟨_, _, hb, h⟩ | ⟨hb, h⟩ | ⟨_, h⟩ | ⟨_, h⟩ | ⟨_, hb, h⟩ | ⟨i, _, hb, h⟩ <;> rw [h]
    · exact .none
    · exact .start _ _ _ hb
    · exact .ignored hb
    · exact .clear v
    · exact .enable v
    · exact .length v hb
    · exact .entry i v hb
  · exact ⟨s, .busError, .none, rfl⟩

/-- An instruction always answers a next state, and this is all it can do to get there. -/
theorem exec_effect (i : Instr) (s : State) :
    ∃ u r, Effect s u ∧ (exec i s = .next (u.respond r) ∨ (u = s.respondFree ∧ exec i s = .next u)) := by
  rcases exec_cases i s with ⟨op, n, r, h⟩ | ⟨r, _, h⟩ | ⟨off, width, _, h⟩ | ⟨off, width, v, _, h⟩
  · rcases s.issue_cases op n r with ⟨hb, hi⟩ | ⟨hb, hi⟩
    · exact ⟨_, .written, .start op n r hb, .inl (by rw [h, State.command, hi])⟩
    · exact ⟨_, .written, .ignored hb, .inl (by rw [h, State.command, hi])⟩
  · exact ⟨s, .written, .none, .inl h⟩
  · rcases execRd_cases off width s with ⟨_, w, _, e⟩ | ⟨_, _, e⟩ | ⟨_, e⟩
    · exact ⟨s, .data w, .none, .inl (h.trans e)⟩
    · exact ⟨_, .written, .free, .inr ⟨rfl, h.trans e⟩⟩
    · exact ⟨s, .busError, .none, .inl (h.trans e)⟩
  · obtain ⟨u, r, he, e⟩ := execWr_effect off width v s
    exact ⟨u, r, he, .inl (h.trans e)⟩

/-- Everything one step can do. -/
theorem step_cases (s : State) :
    (s.agenda = [] ∧ step s = engineTurn s) ∨
    (∃ rest, s.agenda = .engine :: rest ∧ step s = engineTurn (s.withAgenda rest)) ∨
    (∃ rest, s.agenda = .reset :: rest ∧ step s = .next (s.withAgenda rest).applyReset) ∨
    (∃ t rest i, s.agenda = .access t :: rest ∧ decode s.params.basePage t = .instr i ∧
      step s = exec i (s.withAgenda rest)) ∨
    (∃ t rest e, s.agenda = .access t :: rest ∧ decode s.params.basePage t = .rejected e ∧
      step s = .next (s.withAgenda rest)) := by
  unfold step
  cases ha : s.agenda with
  | nil => exact .inl ⟨rfl, rfl⟩
  | cons ev rest =>
    cases ev with
    | engine => exact .inr (.inl ⟨rest, rfl, rfl⟩)
    | reset => exact .inr (.inr (.inl ⟨rest, rfl, rfl⟩))
    | access t =>
      cases hd : decode s.params.basePage t with
      | instr i => exact .inr (.inr (.inr (.inl ⟨t, rest, i, rfl, hd, by simp [hd]⟩)))
      | rejected e => exact .inr (.inr (.inr (.inr ⟨t, rest, e, rfl, hd, by simp [hd]⟩)))

end Sys2Proof.Machine
end

