-- ==== Sys2Proof/Laws/PerInstr.lean ====
section
/-! SUPPORT. Statements made per instruction, one lemma per constructor. -/

namespace Sys2Proof.Laws.EncodeInWindow

/-- The host access that is instruction `i` reaches the window, wherever BASE is (20_memory.md R30). -/
def Statement (i : Instr) : Prop := ∀ page, decode page (encode page i) ≠ .rejected .outsideWindow

theorem encRaw (nullin : Bool) : Statement (.encRaw nullin) := fun page => by simp [encode]
theorem decRaw (nullin : Bool) : Statement (.decRaw nullin) := fun page => by simp [encode]
theorem encSym (nullin : Bool) : Statement (.encSym nullin) := fun page => by simp [encode]
theorem decSym (nullin : Bool) : Statement (.decSym nullin) := fun page => by simp [encode]
theorem beMin (nullin : Bool) : Statement (.beMin nullin) := fun page => by simp [encode]
theorem illegalOp5 (nullin : Bool) : Statement (.illegalOp5 nullin) := fun page => by simp [encode]
theorem illegalOp6 (nullin : Bool) : Statement (.illegalOp6 nullin) := fun page => by simp [encode]
theorem illegalOp7 (nullin : Bool) : Statement (.illegalOp7 nullin) := fun page => by simp [encode]
theorem illegalRsv (op : BitVec 3) (nullin : Bool) (rsv : BitVec 27) :
    Statement (.illegalRsv op nullin rsv) := fun page => by simp [encode]
theorem nop (rest : BitVec 31) : Statement (.nop rest) := fun page => by simp [encode]
theorem rd (off : Offset) (width : Nat) : Statement (.rd off width) := fun page => by simp [encode, decode]
theorem wr (off : Offset) (width : Nat) (v : Word) : Statement (.wr off width v) := fun page => by
  simp only [encode, decode, windowOffset_base]
  split <;> simp

end Sys2Proof.Laws.EncodeInWindow
end

