-- ==== Sys2Proof/Machine/Script.lean ====
section
/-! DEFINITION. The host's bus scripts (30_encoding.md R51, R52). A script lives in the host and no step
reads one: what the BRG sees of a statement is the access it makes. `bne` and labels are the host's own
control flow (40_command_execution.md R62); of `bne` the access it makes and the test it applies are
given here. -/

namespace Sys2Proof.Machine

/-- A statement of a bus script (R51). -/
inductive Stmt
  | wr (l : Loc) (v : Word)
  | rd (l : Loc)
  | cmd (i : Instr)
  | label (name : String)
  | bne (l : Loc) (mask value : Word) (target : String)
  deriving DecidableEq, Repr

/-- The mnemonics of R51, with the suffix `.null` that sets NULLIN. -/
def commandOf (mnemonic : String) : Option Instr :=
  match mnemonic with
  | "enc.raw" => some (.encRaw false)
  | "dec.raw" => some (.decRaw false)
  | "enc.sym" => some (.encSym false)
  | "dec.sym" => some (.decSym false)
  | "be.min" => some (.beMin false)
  | "enc.raw.null" => some (.encRaw true)
  | "dec.raw.null" => some (.decRaw true)
  | "enc.sym.null" => some (.encSym true)
  | "dec.sym.null" => some (.decSym true)
  | "be.min.null" => some (.beMin true)
  | _ => none

/-- The access a statement makes, if it makes one (R51). -/
def Stmt.access (page : Nat) : Stmt → Option BusOp
  | .wr l v => some (.write (Config.base page + l.offset.toNat) Config.busWidth v)
  | .rd l => some (.read (Config.base page + l.offset.toNat) Config.busWidth)
  | .cmd i => some (encode page i)
  | .label _ => none
  | .bne l _ _ _ => some (.read (Config.base page + l.offset.toNat) Config.busWidth)

/-- Whether `bne` goes to its label, for the value read (R51). -/
def bneGoes (v mask value : Word) : Bool := v &&& mask != value

/-- `load` (R52): the entries from index 0 upward, then the length. A list longer than IN has no expansion:
there is no place `IN[256]`. DEDUCED (notes/assumptions/14.md). -/
def scriptLoad (bytes : List Byte) : Option (List Stmt) :=
  if bytes.length ≤ Config.inCap then
    some ((bytes.zipIdx.map fun p => .wr (.inEntry (BitVec.ofNat 8 p.2)) (p.1.setWidth 32))
      ++ [.wr .inLen (BitVec.ofNat 32 bytes.length)])
  else none

/-- The 8-bit code of a character. Codes below 0x80 are the US-ASCII codes of 44_alphabet.md R81. One that does
not fit 8 bits is rejected, never cut to 8 bits: "refuse", 93_implementation_defined.md I18; the host maps it
to a code that keeps its class first (92_eei_decisions.md D11). That 0x80 to 0xFF are the character's own
number is a DESIGN CHOICE (notes/assumptions/14.md). -/
def charCode (c : Char) : Option Byte :=
  if c.toNat < 256 then some (BitVec.ofNat 8 c.toNat) else none

/-- `loads` (R52): `load` of the 8-bit codes of the characters. A text with a character that has no 8-bit code
has no expansion: I18, "refuse" (notes/assumptions/14.md). -/
def scriptLoads (text : String) : Option (List Stmt) :=
  (text.toList.mapM charCode).bind scriptLoad

/-- `wait` (R52): poll until DONE = 1. -/
def scriptWait (name : String) : List Stmt := [.label name, .bne .status 0x2#32 0x2#32 name]

/-- `run` (R52). -/
def scriptRun (i : Instr) (name : String) : List Stmt := .cmd i :: scriptWait name

/-- `ack` (R52): clear DONE and WBUSY. -/
def scriptAck : List Stmt := [.wr .status 0x102#32]

/-- `fetch` (R52), for the value `n` that its read of OUT_LEN returns, which is at most 256 (10_state.md R21).
For a larger `n` there is no expansion: there is no place `OUT[256]`. DEDUCED (notes/assumptions/14.md). -/
def scriptFetch (n : Nat) : Option (List Stmt) :=
  if n ≤ Config.outCap then
    some (.rd .outLen :: (List.range n).map fun i => .rd (.outEntry (BitVec.ofNat 8 i)))
  else none

end Sys2Proof.Machine
end

