-- ==== Sys2Proof/Tests/Slice0.lean ====
section
/-! SUPPORT. The model's own tests. Expected values are the spec's: 95_test_vectors.md where a vector is
named, else the rule named. -/

namespace Sys2Proof.Tests

open Sys2Proof.Machine

/-! ### Well-formedness -/

/-- R48: an `illegal.rsv` with no reserved bit set is refused. -/
theorem test_ill_formed_rsv : (Instr.illegalRsv 0b000#3 false 0#27).wellFormed = false := by decide

/-- A 32-bit write to CMD is spelled by its word's own row. -/
theorem test_ill_formed_cmd_write : (Instr.wr 0x004#12 32 0x5#32).wellFormed = false := by decide

theorem test_well_formed_cmd_byte_write : (Instr.wr 0x004#12 8 0x5#32).wellFormed = true := by decide

/-! ### Decoding: each row's word, written from R43's fields `r…r n ooo s` -/

theorem test_decode_enc_raw : decodeCmd 0b00000000000000000000000000000001#32 = .encRaw false := by decide
theorem test_decode_dec_raw : decodeCmd 0b00000000000000000000000000010011#32 = .decRaw true := by decide
theorem test_decode_enc_sym : decodeCmd 0b00000000000000000000000000000101#32 = .encSym false := by decide
theorem test_decode_dec_sym : decodeCmd 0b00000000000000000000000000010111#32 = .decSym true := by decide
theorem test_decode_be_min : decodeCmd 0b00000000000000000000000000001001#32 = .beMin false := by decide
theorem test_decode_illegal_op5 : decodeCmd 0b00000000000000000000000000011011#32 = .illegalOp5 true := by decide
theorem test_decode_illegal_op6 : decodeCmd 0b00000000000000000000000000001101#32 = .illegalOp6 false := by decide
theorem test_decode_illegal_op7 : decodeCmd 0b00000000000000000000000000001111#32 = .illegalOp7 false := by decide
theorem test_decode_illegal_rsv :
    decodeCmd 0b10000000000000000000000000110111#32 = .illegalRsv 0b011#3 true 0x4000001#27 := by decide
theorem test_decode_nop : decodeCmd 0b11111111111111111111111111111110#32 = .nop 0x7FFFFFFF#31 := by decide

/-- R53: a read at the window's top entry, in the window at BASE = 4096. -/
theorem test_decode_rd : decode 1 (.read 8188 32) = .instr (.rd 0xFFC#12 32) := by decide

/-- R54: a write to IN[1]. -/
theorem test_decode_wr : decode 1 (.write 5124 32 7#32) = .instr (.wr 0x404#12 32 7#32) := by decide

/-- R30: one byte below BASE the BRG is not reached. -/
theorem test_decode_below_window : decode 1 (.write 4095 32 1#32) = .rejected .outsideWindow := by decide

/-! ### Small states -/

/-- An idle BRG whose first entries hold `b`, with IN_LEN set to their number. -/
def idleWith (b : List Byte) : State :=
  { State.reset with inLen := BitVec.ofNat 9 b.length, inBuf := Memory.fill 0 b }

/-- A BRG running operation `op` on `b`. -/
def busyWith (op : BitVec 3) (b : List Byte) : State := (idleWith b).start op false false

/-- The state an outcome gives; State.reset if it gives none. -/
def after (o : Host.Outcome State Fault Refusal) : State :=
  match o with
  | .next t => t
  | .fault _ => State.reset
  | .refused _ => State.reset

/-- What the completion of `op` on `b` shows. -/
def ends (op : BitVec 3) (b : List Byte) : Observation := (after (complete (busyWith op b))).observe

/-- The observation of a success (R110). -/
def success (out : List Byte) : Observation :=
  ⟨false, 0#3, 0#8, 0#8, BitVec.ofNat 9 out.length, some out⟩

/-- The observation of an error (R110). -/
def failure (code : BitVec 3) (index value : Byte) : Observation := ⟨true, code, index, value, 0#9, some []⟩

/-! ### One test or two per instruction -/

/-- 95 §2.1: [12, 34]. -/
theorem test_enc_raw : ends 0b000#3 [0x12#8, 0x34#8] = success [0x00#8, 0x04#8, 0x11#8, 0x14#8] := by decide

/-- 95 §2.1: 41 entries are too many. -/
theorem test_enc_raw_too_large : ends 0b000#3 (zeros 41) = failure 2#3 0#8 0#8 := by decide

/-- 95 §1, V3: "b8ibb". -/
theorem test_enc_sym :
    ends 0b010#3 [0x1F#8, 0x20#8, 0x21#8] = success [0x62#8, 0x38#8, 0x69#8, 0x62#8, 0x62#8] := by decide

/-- 95 §2.3: the raw form of "friend", with its overflow byte. -/
theorem test_dec_raw :
    ends 0b001#3 [0x05#8, 0x0F#8, 0x08#8, 0x04#8, 0x0C#8, 0x03#8] =
      success [0x0A#8, 0xF4#8, 0x11#8, 0x83#8] := by decide

/-- 95 §2.4: raw value 32 at index 1. -/
theorem test_dec_raw_invalid : ends 0b001#3 [0x00#8, 0x20#8] = failure 3#3 1#8 0x20#8 := by decide

/-- 95 §1, V2: "aaaab". -/
theorem test_dec_sym :
    ends 0b011#3 [0x61#8, 0x61#8, 0x61#8, 0x61#8, 0x62#8] = success [0x00#8, 0x00#8, 0x01#8] := by decide

/-- 95 §2.4: 65 spaces, all whitespace before too large. -/
theorem test_dec_sym_blank : ends 0b011#3 (List.replicate 65 0x20#8) = failure 1#3 0#8 0#8 := by decide

/-- 95 §2.2: only leading zeros are stripped. -/
theorem test_be_min : ends 0b100#3 [0x00#8, 0x01#8, 0x00#8] = success [0x01#8, 0x00#8] := by decide

/-- 95 §2.2: zero gives the empty sequence. -/
theorem test_be_min_zero : ends 0b100#3 [0x00#8, 0x00#8] = success [] := by decide

/-- 95 §2.4: reserved OPs. -/
theorem test_illegal_op5 : ends 0b101#3 [0x01#8] = failure 4#3 0#8 0#8 := by decide
theorem test_illegal_op6 : ends 0b110#3 [] = failure 4#3 0#8 0#8 := by decide
theorem test_illegal_op7 : ends 0b111#3 [] = failure 4#3 0#8 0#8 := by decide

/-- 95 §2.4: 0x21, IllegalCommand before InvalidInput. -/
theorem test_illegal_rsv :
    (after (complete ((idleWith []).start 0b000#3 false true))).observe = failure 4#3 0#8 0#8 := by decide

/-- 95 §2.5: `wr CMD, 0xFFFFFFFE` while BUSY has no effect, WBUSY included. -/
theorem test_nop : (after (exec (.nop 0x7FFFFFFF#31) (busyWith 0b000#3 []))).wbusy = false := by decide

/-- 95 §3, P3: STATUS reads 0x36 after InvalidSymbol. -/
theorem test_rd_status :
    (after (exec (.rd 0x008#12 32) ((busyWith 0b011#3 []).commitErr .invalidSymbol 3#8 0x30#8))).resp =
      some (.data 0x00000036#32) := by decide

/-- 95 §3, P3: ERR_INFO reads 0x3003. -/
theorem test_rd_err_info :
    (after (exec (.rd 0x018#12 32) ((busyWith 0b011#3 []).commitErr .invalidSymbol 3#8 0x30#8))).resp =
      some (.data 0x00003003#32) := by decide

/-- 95 §2.5: `wr IN_LEN, 0xFFFFFE03` leaves 3. -/
theorem test_wr_in_len : (after (exec (.wr 0x010#12 32 0xFFFFFE03#32) (idleWith []))).inLen = 3#9 := by decide

/-- 95 §2.5: any access at offset 0x00A is a bus error. -/
theorem test_wr_misaligned :
    exec (.wr 0x00A#12 32 5#32) (idleWith []) = .next ((idleWith []).respond .busError) := by rfl

/-! ### Steps -/

/-- 40 R56: `wr CMD, 0x5` right after reset makes STATUS read 1, as the first step. -/
theorem test_step_first_word : (after (step (State.reset.withFetchWord 32 5))).statusWord = 1#32 := by decide

/-- 95 §3, P4: a write of IN[0] while BUSY is ignored and sets WBUSY. -/
theorem test_step_busy_write :
    (after (step { busyWith 0b100#3 [0#8] with agenda := [.access (.write 0x400 32 7#32)] })).wbusy = true := by
  decide

/-- 70 R103: an operation that reads an entry never written faults. -/
theorem test_unwritten_input :
    complete { busyWith 0b100#3 [] with inLen := 1#9 } = .fault .unwrittenInput := by rfl

/-- 30 R51: `enc.sym.null` is 0x15. -/
theorem test_script_mnemonic :
    (commandOf "enc.sym.null").map (encode 0) = some (.write 0x004 32 0x15#32) := by decide

/-- 95 §3, P1: the accesses of `load [0x1F, 0x20]`. -/
theorem test_script_load :
    (scriptLoad [0x1F#8, 0x20#8]).map (List.filterMap (Stmt.access 0)) =
      some [.write 0x400 32 0x1F#32, .write 0x404 32 0x20#32, .write 0x010 32 2#32] := by decide

/-- 30 R52, 44 R81: `loads "a9"` writes the codes 0x61 and 0x39; 93 I18: U+0161, whose low 8 bits are the code
of `a`, has no 8-bit code and is refused. -/
theorem test_script_loads :
    ("a9".toList.mapM charCode = some [0x61#8, 0x39#8]) ∧ charCode (Char.ofNat 0x161) = none ∧
    scriptLoads "a\u0161" = none := by decide

/-- 10 R23, R24: there is no entry IN[256] or OUT[256]. -/
theorem test_script_bounds :
    scriptLoad (List.replicate 257 0#8) = none ∧ scriptFetch 257 = none := by
  exact ⟨if_neg (by rw [List.length_replicate]; decide), rfl⟩

/-! ### Witnesses: concrete states and operands that meet the hypotheses of the obligations, each clause at
a boundary of its range -/

/-- The idle state of `idleWith b` holds `b` as its input, for every input that IN has room for. -/
theorem idleWith_holdsInput (b : List Byte) (h : b.length ≤ 256) : (idleWith b).HoldsInput b := by
  refine ⟨?_, fun i _ => Memory.read_fill_zero b i⟩
  simp only [idleWith, BitVec.toNat_ofNat]
  omega

theorem idleWith_inLen (b : List Byte) (h : b.length < 512) : (idleWith b).inLen.toNat = b.length := by
  simp only [idleWith, BitVec.toNat_ofNat]
  omega

theorem zeros_length (n : Nat) : (zeros n).length = n := List.length_replicate

theorem idleWith_zeros (n : Nat) (h : n < 512) : (idleWith (zeros n)).inLen.toNat = n := by
  rw [idleWith_inLen _ (by rw [zeros_length]; exact h), zeros_length]

theorem idleWith_replicate (n : Nat) (x : Byte) (h : n ≤ 256) :
    (idleWith (List.replicate n x)).HoldsInput (List.replicate n x) :=
  idleWith_holdsInput _ (by rw [List.length_replicate]; exact h)

theorem witness_DecodeEncodeRoundTrip : (Instr.illegalRsv 0b111#3 true 1#27).wellFormed = true ∧
    (Instr.wr 0x004#12 31 0#32).wellFormed = true ∧ (Instr.wr 0xFFF#12 32 0#32).wellFormed = true := by decide

theorem witness_EncodeDecodeRoundTrip : decode 1 (.read 4096 32) = .instr (.rd 0x000#12 32) ∧
    decode 1 (.write 8191 8 0#32) = .instr (.wr 0xFFF#12 8 0#32) ∧
    decode 1 (.read 8192 32) = .rejected .outsideWindow := by decide

theorem witness_CmdWordsDecodeAsR49 : (idleWith []).busy = false ∧
    (0xFFFFFFFE#32).toNat % 2 = 0 ∧ (0x80000001#32).toNat / 32 ≠ 0 ∧ (0x0000000B#32).toNat / 2 % 8 = 5 ∧
    (0x0000001F#32).toNat / 2 % 8 = 7 ∧ (0x00000019#32).toNat / 2 % 8 = 4 ∧ (0x00000019#32).toNat / 32 = 0 := by
  decide

/-- A BRG with a turn of each kind to come. -/
def turns (ev : Event) : State := { busyWith 0b100#3 [0#8] with agenda := [ev] }

theorem witness_StepExecutesTheDecodedAccess :
    (turns (.access (.read 0x008 32))).agenda = [.access (.read 0x008 32)] ∧
    decode (turns (.access (.read 0x008 32))).params.basePage (.read 0x008 32) = .instr (.rd 0x008#12 32) ∧
    decode (turns .engine).params.basePage (.read 4096 32) = .rejected .outsideWindow := by decide

theorem witness_EngineAndResetTurns :
    (turns .engine).agenda = [.engine] ∧ (turns .engine).busy = true ∧
    (busyWith 0b000#3 []).agenda = [] ∧ (busyWith 0b000#3 []).busy = true ∧ (idleWith []).busy = false ∧
    (turns .reset).agenda = [.reset] := by decide

/-- A state that reset takes back from a running operation. -/
theorem witness_ResetLeavesR28 : (turns .reset).busy = true ∧ (turns .reset).applyReset.busy = false := by decide

theorem witness_ReadsFollowR53 :
    (idleWith [0#8, 9#8]).inBuf.read (1#8).toNat = some 9#8 ∧ (idleWith []).inBuf.read (0#8).toNat = none ∧
    ((idleWith []).commitOk [7#8]).outBuf.read (0#8).toNat = some 7#8 ∧
    ((idleWith []).commitOk [7#8]).outBuf.read (1#8).toNat = none ∧
    (0x01C#12).toNat % 4 = 0 ∧ (0xFFC#12).toNat % 4 = 0 ∧ (0x00A#12).toNat % 4 ≠ 0 ∧
    (busyWith 0b000#3 []).busy = true := by decide

/-- The last clause of ReadsFollowR53: a running operation in a state that meets OutputLegal. -/
theorem witness_outputLegal_busy : (busyWith 0b000#3 []).OutputLegal := by
  refine ⟨fun _ => rfl, by decide, fun i => ?_⟩
  simp [busyWith]

theorem witness_WritesFollowR54 :
    (0x00000005#32).getLsbD 0 = true ∧ (0xFFFFFFFE#32).getLsbD 0 = false ∧ (busyWith 0b000#3 []).busy = true ∧
    (idleWith []).busy = false ∧ (0x3FC#12).toNat % 4 = 0 ∧ (0x800#12).toNat % 4 = 0 ∧
    (0xBFC#12).toNat % 4 = 0 ∧ (0x7FD#12).toNat % 4 ≠ 0 := by decide

theorem witness_BusErrorExactlyWhenMisaligned :
    exec (.rd 0x008#12 8) (idleWith []) = .next ((idleWith []).respond .busError) ∧
    exec (.wr 0x014#12 32 5#32) (idleWith []) = .next ((idleWith []).respond .written) := ⟨rfl, rfl⟩

theorem witness_ReservedOffsetsReadZero :
    (0x01C#12).toNat % 4 = 0 ∧ (0x3FC#12).toNat % 4 = 0 ∧ (0xC00#12).toNat % 4 = 0 ∧ (0xFFC#12).toNat % 4 = 0 := by
  decide

/-- A write to IN[255], to a no-operation and to IN_LEN meet the hypotheses of PlainWritesAreIdempotent. -/
theorem witness_PlainWritesAreIdempotent :
    exec (.wr 0x7FC#12 32 9#32) (idleWith []) = .next (((idleWith []).writeInput 255#8 9#32).respond .written) ∧
    exec (.wr 0x004#12 32 6#32) (idleWith []) = .next ((idleWith []).respond .written) ∧
    exec (.wr 0x010#12 32 511#32) (idleWith []) = .next (((idleWith []).setInLen 511#32).respond .written) :=
  ⟨rfl, rfl, rfl⟩

/-- Reads that answer a word and a free byte, and a no-operation, each with a next state; and a write to
IN[255], an entry the frame names (the hypotheses of the frames). -/
theorem witness_frames :
    exec (.rd 0x000#12 32) (idleWith []) = .next ((idleWith []).respond (.data 0x42524701#32)) ∧
    exec (.rd 0xBFC#12 32) (idleWith []) = .next (idleWith []).respondFree ∧
    exec (.nop 0#31) (idleWith []) = .next ((idleWith []).respond .written) ∧
    exec (.wr 0x7FC#12 32 9#32) (idleWith []) =
      .next (((idleWith []).writeInput 255#8 9#32).respond .written) ∧
    locate 0x7FC#12 = .inEntry 255#8 := ⟨rfl, rfl, rfl, rfl, by decide⟩

theorem witness_StartFollowsR56 : (idleWith []).busy = false ∧ (0xFFFFFFFF#32).toNat % 2 = 1 := by decide

theorem witness_StartRowFrame : IsStartRow (.illegalRsv 0b111#3 true 1#27) ∧
    exec (.illegalRsv 0b111#3 true 1#27) (busyWith 0b000#3 []) =
      .next ((busyWith 0b000#3 []).ignoreWrite.respond .written) := ⟨trivial, rfl⟩

theorem witness_BusyIgnoresOperandWrites :
    (busyWith 0b000#3 []).busy = true ∧ (0x00000001#32).toNat % 2 = 1 ∧
    (busyWith 0b000#3 []).ignoreWrite.wbusy = true ∧
    (after (exec (.wr 0x008#12 32 0x102#32) (busyWith 0b000#3 []).ignoreWrite)).wbusy = false ∧
    (after (exec (.encRaw false) (idleWith []).ignoreWrite)).wbusy = false := by decide

theorem witness_results :
    (busyWith 0b100#3 [1#8, 0#8]).result = .ok [1#8, 0#8] ∧
    (busyWith 0b000#3 (zeros 41)).result = .err .tooLarge 0#8 0#8 ∧
    (busyWith 0b001#3 [0#8, 255#8]).result = .err .invalidSymbol 1#8 255#8 ∧
    (busyWith 0b011#3 [0x20#8]).result = .err .invalidInput 0#8 0#8 ∧
    (busyWith 0b111#3 []).result = .err .illegalCommand 0#8 0#8 := by decide

theorem witness_CompleteFrame :
    complete (busyWith 0b111#3 []) = .next ((busyWith 0b111#3 []).commitErr .illegalCommand 0#8 0#8) := by rfl

/-- No entry written, at the largest LEN each operation reads (R103). -/
theorem witness_UnwrittenInputFaultsExactly :
    (idleWith []).inBuf.read 0 = none ∧ (busyWith 0b000#3 []).latchRsv = false ∧
    (busyWith 0b000#3 []).latchNullin = false ∧ (40#9).toNat ≤ 40 ∧ (64#9).toNat ≤ 64 ∧ (256#9).toNat ≤ 256 ∧
    ({ busyWith 0b000#3 [] with inLen := 40#9 } : State).result = .unwritten ∧
    ({ busyWith 0b001#3 [] with inLen := 64#9 } : State).result = .unwritten ∧
    ({ busyWith 0b011#3 [0#8] with inLen := 2#9 } : State).result = .unwritten ∧
    ({ busyWith 0b100#3 [0#8] with inLen := 2#9 } : State).result = .unwritten := by decide

/-- Two states with one operation on one byte that differ in an entry beyond LEN and in IE. -/
theorem witness_ResultDependsOnOperandsOnly :
    let s := busyWith 0b100#3 [5#8]
    let s' := ({ busyWith 0b100#3 [5#8, 6#8] with inLen := 1#9, intEn := true } : State)
    s.latchOp = s'.latchOp ∧ s.latchNullin = s'.latchNullin ∧ s.latchRsv = s'.latchRsv ∧ s.inLen = s'.inLen ∧
    s.params.wsSet = s'.params.wsSet ∧ s.inBuf.read 0 = s'.inBuf.read 0 ∧ s ≠ s' ∧
    s.result = .ok [5#8] ∧ s'.result = .ok [5#8] := by decide

/-- The lengths at the ends of the encoders' ranges, each held by an idle state. -/
theorem witness_encoders :
    (idleWith [0xFF#8]).HoldsInput [0xFF#8] ∧ (idleWith (zeros 40)).HoldsInput (zeros 40) ∧
    (idleWith (zeros 40)).busy = false ∧ (idleWith []).inLen = 0#9 ∧ (idleWith (zeros 41)).inLen.toNat = 41 ∧
    (idleWith (zeros 300)).inLen.toNat = 300 :=
  ⟨idleWith_holdsInput _ (by decide), idleWith_replicate 40 _ (by decide), rfl, rfl,
    idleWith_zeros 41 (by decide), idleWith_zeros 300 (by decide)⟩

/-- The same for `dec.raw`: a largest legal input, and one whose second entry is the first offending. -/
theorem witness_DecRawFollowsR78 :
    (idleWith (zeros 64)).HoldsInput (zeros 64) ∧ (∀ e ∈ zeros 64, e.toNat < 32) ∧
    (idleWith [31#8, 32#8, 255#8]).HoldsInput [31#8, 32#8, 255#8] ∧
    [31#8, 32#8, 255#8][1]? = some 32#8 ∧ (31#8).toNat < 32 ∧ (idleWith (zeros 65)).inLen.toNat = 65 :=
  ⟨idleWith_replicate 64 _ (by decide), fun e he => by rw [List.eq_of_mem_replicate he]; decide,
    idleWith_holdsInput _ (by decide), by decide, by decide, idleWith_zeros 65 (by decide)⟩

/-- The same for `dec.sym`: blank at 256 entries, too large at 65, an offending code at index 1, and 64
symbols. -/
theorem witness_DecSymFollowsR79 :
    (idleWith (List.replicate 256 0x20#8)).HoldsInput (List.replicate 256 0x20#8) ∧
    (∀ x ∈ List.replicate 256 0x20#8, x ∈ Config.defaultWsSet) ∧
    (idleWith (List.replicate 65 0x61#8)).HoldsInput (List.replicate 65 0x61#8) ∧
    (∃ x ∈ List.replicate 65 0x61#8, x ∉ Config.defaultWsSet) ∧
    (idleWith [0x61#8, 0x30#8]).HoldsInput [0x61#8, 0x30#8] ∧ 0x30#8 ∉ alphabet ∧ 0x61#8 ∈ alphabet ∧
    (idleWith (List.replicate 64 0x39#8)).HoldsInput (List.replicate 64 0x39#8) ∧
    (∀ e ∈ List.replicate 64 0x39#8, e ∈ alphabet) ∧ (idleWith (zeros 257)).inLen.toNat = 257 := by
  refine ⟨idleWith_replicate 256 _ (by decide), fun e he => by rw [List.eq_of_mem_replicate he]; decide,
    idleWith_replicate 65 _ (by decide), ⟨0x61#8, List.mem_replicate.mpr ⟨by decide, rfl⟩, by decide⟩,
    idleWith_holdsInput _ (by decide), by decide, by decide, idleWith_replicate 64 _ (by decide),
    fun e he => by rw [List.eq_of_mem_replicate he]; decide, idleWith_zeros 257 (by decide)⟩

/-- An upper-case letter, not whitespace and not in the alphabet, held by an idle state; and a group string
with an overflow byte. -/
theorem witness_AlphabetMapping_DecodeIsNotInjective :
    (idleWith [0x41#8]).HoldsInput [0x41#8] ∧ 0x41#8 ∉ (idleWith [0x41#8]).params.wsSet ∧
    index 0x41#8 = none ∧ index 0x5A#8 = none ∧ index 0x80#8 = none ∧
    256 ^ (5 * [31#5].length / 8) ≤ valueOf 32 ([31#5].map fun x => x.toNat) :=
  ⟨idleWith_holdsInput _ (by decide), by decide, by decide, by decide, by decide, by decide⟩

theorem witness_BeMinFollowsR67 :
    (idleWith []).HoldsInput [] ∧ (idleWith (zeros 256)).HoldsInput (zeros 256) ∧
    (idleWith (zeros 257)).inLen.toNat = 257 ∧ (idleWith []).busy = false :=
  ⟨idleWith_holdsInput _ (by decide), idleWith_replicate 256 _ (by decide), idleWith_zeros 257 (by decide), rfl⟩

theorem witness_IllegalWordsFollowR48 :
    IsIllegalRow (.illegalOp5 true) ∧ (Instr.illegalOp5 true).wellFormed = true ∧
    IsIllegalRow (.illegalRsv 0b000#3 false 1#27) ∧ (Instr.illegalRsv 0b000#3 false 1#27).wellFormed = true ∧
    (0x00000021#32).toNat / 32 ≠ 0 ∧ 5 ≤ (0x0000000B#32).toNat / 2 % 8 :=
  ⟨trivial, rfl, trivial, rfl, by decide, by decide⟩

/-- A completion raises IRQ when IE = 1, and a W1C write, a START and IE = 0 each find it high (R26). -/
theorem witness_IrqFollowsR26 :
    ({ busyWith 0b111#3 [] with intEn := true }.commitErr .illegalCommand 0#8 0#8).irq = true ∧
    (0x00000002#32).getLsbD 1 = true ∧ (0x00000102#32).getLsbD 8 = true ∧ (idleWith []).busy = false := by decide

/-- An error not yet acknowledged, in a state that takes a START (R91). -/
theorem witness_AcknowledgingFollowsR91 :
    ((busyWith 0b111#3 []).commitErr .illegalCommand 0#8 0#8).busy = false ∧
    ((busyWith 0b111#3 []).commitErr .illegalCommand 0#8 0#8).err = true ∧ (0x00000002#32).getLsbD 1 = true := by
  decide

/-- 256 = 2^8 has bit length 9 (the hypothesis of R66 law 3), and 255 fits one byte (law 9). -/
theorem witness_BigEndianLawsOfR66 : (∀ m, 256 < 2 ^ m ↔ 9 ≤ m) ∧ 255 < 2 ^ (8 * 1) := by
  refine ⟨fun m => ⟨fun h => ?_, fun h => ?_⟩, by decide⟩
  · by_contra hm
    have := Nat.pow_le_pow_right (n := 2) (by decide) (show m ≤ 8 by omega)
    omega
  · have := Nat.pow_le_pow_right (n := 2) (by decide) h
    omega

theorem witness_codec_lengths :
    1 ≤ (zeros 1).length ∧ (zeros 40).length ≤ 40 ∧ 0 < (encGroups (zeros 1)).length ∧
    groupCount (zeros 40).length ≤ 64 ∧ (List.replicate 64 31#5).length ≤ 64 ∧ (zeros 256).length ≤ 256 ∧
    (List.replicate 64 31#5).length % 8 = 0 := by
  simp only [zeros_length, List.length_replicate]
  decide

/-- `enc.sym` of one byte and `dec.sym` of what it publishes meet the hypotheses of
DecodeAfterEncodeIsIdentity, the disjointness of WS_SET and the alphabet included. -/
theorem witness_DecodeAfterEncodeIsIdentity :
    let u := ((idleWith [1#8]).command 0b010#3 false false).commitOk [0x61#8, 0x62#8]
    (idleWith [1#8]).busy = false ∧ (idleWith [1#8]).HoldsInput [1#8] ∧
    Performs (.encSym false) (idleWith [1#8]) u ∧ u.Succeeded [0x61#8, 0x62#8] ∧
    (idleWith [0x61#8, 0x62#8]).HoldsInput [0x61#8, 0x62#8] ∧
    ParamsLegal (idleWith [0x61#8, 0x62#8]).params := by
  refine ⟨rfl, idleWith_holdsInput _ (by decide), ⟨_, rfl, rfl, rfl⟩,
    ⟨rfl, rfl, rfl, rfl, rfl, rfl, rfl, fun j => Memory.read_fill_zero _ j⟩,
    idleWith_holdsInput _ (by decide), ?_⟩
  unfold ParamsLegal
  decide

/-- The same for `enc.raw` and `dec.raw`. -/
theorem witness_DecodeAfterEncodeIsIdentity_raw :
    let u := ((idleWith [1#8]).command 0b000#3 false false).commitOk [0#8, 1#8]
    Performs (.encRaw false) (idleWith [1#8]) u ∧ u.Succeeded [0#8, 1#8] :=
  ⟨⟨_, rfl, rfl, rfl⟩, rfl, rfl, rfl, rfl, rfl, rfl, rfl, fun j => Memory.read_fill_zero _ j⟩

/-- A state that meets the invariant, whose next step publishes a result. -/
theorem witness_StepKeepsInvariant :
    (busyWith 0b100#3 [5#8]).Inv ∧
    step (busyWith 0b100#3 [5#8]) = .next ((busyWith 0b100#3 [5#8]).commitOk [5#8]) := by
  refine ⟨⟨⟨fun _ => ⟨rfl, rfl, rfl⟩, by decide, by decide⟩, ⟨fun _ => rfl, by decide, fun i => ?_⟩,
    ⟨fun _ => ⟨rfl, rfl⟩, by decide⟩, by decide, by decide⟩, rfl⟩
  simp [busyWith]

theorem witness_StepKeepsParamsAndStopsOnlyUnwritten :
    step (idleWith []) = .next (idleWith []) ∧
    step { busyWith 0b100#3 [] with inLen := 1#9 } = .fault .unwrittenInput := ⟨rfl, rfl⟩

/-- A state that meets the invariant with one OUT entry defined: entry 0 is read, entry 1 is free. -/
theorem witness_OutReadsDefinedExactlyBelowOutLen :
    ((idleWith []).commitOk [7#8]).Inv ∧ ((idleWith []).commitOk [7#8]).outLen.toNat = 1 := by
  refine ⟨⟨⟨fun h => by simp at h, by decide, by decide⟩, ⟨fun h => by simp at h, by decide, fun i => ?_⟩,
    ⟨fun _ => ⟨rfl, rfl⟩, by decide⟩, by decide, by decide⟩, by decide⟩
  rw [State.commitOk_outBuf, Memory.read_fill_zero]
  have h : ((idleWith []).commitOk [7#8]).outLen.toNat = [7#8].length := by decide
  rw [h]
  simp

/-- Two accesses, one of them to the operands, between a START and the engine's turn. -/
theorem witness_HostAccessesCannotChangeARunningOperation :
    let es := [BusOp.write 0x400 32 7#32, BusOp.read 0x008 32]
    let s := ({ busyWith 0b100#3 [5#8] with agenda := es.map .access ++ .engine :: [.reset] } : State)
    s.busy = true ∧ s.agenda = es.map .access ++ .engine :: [.reset] ∧ s.result = .ok [5#8] := by decide

/-- After the reset: the engine, a no-operation and a status read at BASE, a write outside the window, a misaligned
CMD write with bit 0 set, a second reset; a START comes only after them. -/
theorem witness_ResetAbortsTheRunningOperation :
    let es := [Event.engine, .access (.write 0x004 32 0xFFFFFFFE#32), .access (.read 0x008 32),
      .access (.write 0x1004 32 1#32), .access (.write 0x004 16 1#32), .reset]
    let s := ({ busyWith 0b100#3 [5#8] with
      agenda := .reset :: (es ++ [.access (.write 0x004 32 1#32)]) } : State)
    s.agenda = .reset :: (es ++ [.access (.write 0x004 32 1#32)]) ∧ s.busy = true ∧
    ∀ t, .access t ∈ es → ∀ i, decode s.params.basePage t = .instr i → ¬ IsStartRow i := by
  refine ⟨rfl, rfl, fun t ht i hi => ?_⟩
  simp only [List.mem_cons, List.not_mem_nil, or_false, reduceCtorEq, false_or, Event.access.injEq] at ht
  rcases ht with rfl | rfl | rfl | rfl
  · obtain rfl : i = .nop 0x7FFFFFFF#31 := (Decoded.instr.inj (hi.symm.trans (by decide)))
    exact not_false
  · obtain rfl : i = .rd 0x008#12 32 := (Decoded.instr.inj (hi.symm.trans (by decide)))
    exact not_false
  · exact absurd (hi.symm.trans (by decide : _ = Decoded.rejected .outsideWindow)) (by simp)
  · obtain rfl : i = .wr 0x004#12 16 1#32 := (Decoded.instr.inj (hi.symm.trans (by decide)))
    exact not_false

end Sys2Proof.Tests
end

section
/-! PROOFS. The family 10_state.md: the interrupt line (R26) and the reset values (R28). First the lemmas
they are assembled from: what a START row, COMPLETE and the writes of STATUS and INT_EN answer, and one
lemma per update of State about IRQ. -/

namespace Sys2Proof.Machine

section Answers

variable {s t : State} {i : Instr}

/-! ### What an instruction answers -/

/-- A START row does what its CMD word does (40_command_execution.md R56). -/
theorem exec_startRow (h : IsStartRow i) (s : State) :
    ∃ op nullin rsv, exec i s = .next (s.command op nullin rsv) := by
  rcases exec_cases i s with hc | ⟨r, rfl, _⟩ | ⟨off, width, rfl, _⟩ | ⟨off, width, v, rfl, _⟩
  · exact hc
  · exact h.elim
  · exact h.elim
  · exact h.elim

/-- In an idle state a START row is accepted. -/
theorem exec_startRow_idle (h : IsStartRow i) (hb : s.busy = false) :
    ∃ op nullin rsv, exec i s = .next ((s.start op nullin rsv).respond .written) := by
  obtain ⟨op, nullin, rsv, he⟩ := exec_startRow h s
  exact ⟨op, nullin, rsv, by rw [he, State.command_idle hb]⟩

/-- A COMPLETE that ends in a next state has published a result or an error there. -/
theorem complete_eq_next (h : complete s = .next t) :
    (∃ out, s.result = .ok out ∧ t = s.commitOk out) ∨
    (∃ kind index value, s.result = .err kind index value ∧ t = s.commitErr kind index value) := by
  rcases complete_cases s with ⟨out, hr, hc⟩ | ⟨kind, index, value, hr, hc⟩ | ⟨_, hc⟩ <;> rw [hc] at h
  · exact .inl ⟨out, hr, (Host.Outcome.next.inj h).symm⟩
  · exact .inr ⟨kind, index, value, hr, (Host.Outcome.next.inj h).symm⟩
  · cases h

/-- A 32-bit write to STATUS is performed whether the BRG is busy or not (R54, R55). -/
theorem exec_wr_status (v : Word) (s : State) :
    exec (.wr 0x008#12 32 v) s = .next ((s.clearStatus v).respond .written) :=
  execWr_performed (by decide)

/-- A 32-bit write to INT_EN is performed whether the BRG is busy or not (R54, R55). -/
theorem exec_wr_intEn (v : Word) (s : State) :
    exec (.wr 0x00C#12 32 v) s = .next ((s.setIntEn v).respond .written) :=
  execWr_performed (by decide)

/-- A 32-bit read of an aligned place that holds a value answers it. -/
theorem readsAs_of_readWord {off : Offset} {w : Word} (ha : accessOk off 32 = true)
    (h : s.readWord (locate off) = some w) : ReadsAs s off w :=
  execRd_value ha h

/-! ### The interrupt line -/

theorem State.irq_eq_true_iff (s : State) : s.irq = true ↔ s.done = true ∧ s.intEn = true := by
  simp [State.irq]

@[simp] theorem State.respond_irq (r : Resp) (s : State) : (s.respond r).irq = s.irq := rfl

@[simp] theorem State.clearStatus_irq (v : Word) (s : State) :
    (s.clearStatus v).irq = (s.irq && !v.getLsbD 1) := by
  simp [State.irq, Bool.and_right_comm]

@[simp] theorem State.setIntEn_irq (v : Word) (s : State) :
    (s.setIntEn v).irq = (s.done && v.getLsbD 0) := rfl

@[simp] theorem State.start_irq (op : BitVec 3) (nullin rsv : Bool) (s : State) :
    (s.start op nullin rsv).irq = false := rfl

@[simp] theorem State.commitOk_irq (out : List Byte) (s : State) : (s.commitOk out).irq = s.intEn := rfl

@[simp] theorem State.commitErr_irq (kind : ErrKind) (index value : Byte) (s : State) :
    (s.commitErr kind index value).irq = s.intEn := rfl

@[simp] theorem State.applyReset_irq (s : State) : s.applyReset.irq = false := rfl

/-- IRQ rises at a completion, with success or with an error, exactly when IE is set. -/
theorem complete_irq (h : complete s = .next t) : t.irq = s.intEn := by
  rcases complete_eq_next h with ⟨out, _, rfl⟩ | ⟨kind, index, value, _, rfl⟩
  · exact s.commitOk_irq out
  · exact s.commitErr_irq kind index value

/-- An accepted START lowers IRQ. -/
theorem exec_startRow_irq (h : IsStartRow i) (hb : s.busy = false) (he : exec i s = .next t) :
    t.irq = false := by
  obtain ⟨op, nullin, rsv, hs⟩ := exec_startRow_idle h hb
  obtain rfl := Host.Outcome.next.inj (hs.symm.trans he)
  rw [State.respond_irq, State.start_irq]

/-- A write to STATUS keeps IRQ up only when its bit 1 is clear. -/
theorem exec_wr_status_irq {v : Word} (he : exec (.wr 0x008#12 32 v) s = .next t) :
    t.irq = (s.irq && !v.getLsbD 1) := by
  obtain rfl := Host.Outcome.next.inj ((exec_wr_status v s).symm.trans he)
  rw [State.respond_irq, State.clearStatus_irq]

/-- After a write to INT_EN the line follows DONE and the bit written. -/
theorem exec_wr_intEn_irq {v : Word} (he : exec (.wr 0x00C#12 32 v) s = .next t) :
    t.irq = (s.done && v.getLsbD 0) := by
  obtain rfl := Host.Outcome.next.inj ((exec_wr_intEn v s).symm.trans he)
  rw [State.respond_irq, State.setIntEn_irq]

end Answers

/-- Settles O32: IRQ is DONE and IE, so each clause is what one update does to those two bits. -/
theorem irqFollowsR26 : Obligations.IrqFollowsR26 := by
  unfold Obligations.IrqFollowsR26
  refine ⟨State.irq_eq_true_iff, State.reset.applyReset_irq, fun _ _ => complete_irq,
    fun s t v he hv => ?_, fun _ _ _ => exec_startRow_irq, fun _ _ _ => exec_wr_intEn_irq⟩
  rw [exec_wr_status_irq he, hv, Bool.not_true, Bool.and_false]

/-! ### Reset -/

/-- `State.reset` is a state that reset leaves, so what holds after every reset holds of it. -/
theorem State.reset_eq_applyReset : State.reset = State.reset.applyReset := rfl

@[simp] theorem State.applyReset_statusWord (s : State) : s.applyReset.statusWord = 0#32 := by
  simp [State.statusWord]

@[simp] theorem State.applyReset_errInfoWord (s : State) : s.applyReset.errInfoWord = 0#32 := by
  simp [State.errInfoWord]

/-- The seven registers of the window read their reset values after every reset (R28). -/
theorem applyReset_readsAs (s : State) :
    ReadsAs s.applyReset 0x000#12 0x42524701#32 ∧ ReadsAs s.applyReset 0x004#12 0#32 ∧
    ReadsAs s.applyReset 0x008#12 0#32 ∧ ReadsAs s.applyReset 0x00C#12 0#32 ∧
    ReadsAs s.applyReset 0x010#12 0#32 ∧ ReadsAs s.applyReset 0x014#12 0#32 ∧
    ReadsAs s.applyReset 0x018#12 0#32 := by
  refine ⟨?id, ?cmd, ?status, ?intEn, ?inLen, ?outLen, ?errInfo⟩
  case id => exact readsAs_of_readWord (by decide) rfl
  case cmd => exact readsAs_of_readWord (by decide) rfl
  case status => exact readsAs_of_readWord (by decide) (congrArg some s.applyReset_statusWord)
  case intEn => exact readsAs_of_readWord (by decide) rfl
  case inLen => exact readsAs_of_readWord (by decide) rfl
  case outLen => exact readsAs_of_readWord (by decide) rfl
  case errInfo => exact readsAs_of_readWord (by decide) (congrArg some s.applyReset_errInfoWord)

/-- Settles O8: `State.reset` is itself the result of a reset, and after a reset the registers read as
`applyReset_readsAs` says, each flag and field is what `applyReset` sets, and both buffers are empty. -/
theorem resetLeavesR28 : Obligations.ResetLeavesR28 := by
  unfold Obligations.ResetLeavesR28
  intro s u hu
  obtain ⟨r, rfl⟩ : ∃ r : State, u = r.applyReset := by
    rcases hu with rfl | rfl
    · exact ⟨s, rfl⟩
    · exact ⟨State.reset, State.reset_eq_applyReset⟩
  obtain ⟨hid, hcmd, hstatus, hintEn, hinLen, houtLen, herrInfo⟩ := applyReset_readsAs r
  refine ⟨hid, hcmd, hstatus, hintEn, hinLen, houtLen, herrInfo, ?_⟩
  simp

end Sys2Proof.Machine
end

section
/-! PROOFS. The family 20_memory.md: the bus error (R34) and the reserved offsets (R32). -/

namespace Sys2Proof.Machine

/-! ### The bus error -/

/-- Everything a write can do: answer that it was accepted, or answer BusError. -/
theorem execWr_cases (off : Offset) (width : Nat) (v : Word) (s : State) :
    (accessOk off width = true ∧
      execWr off width v s = .next ((s.writeWord v (locate off)).respond .written)) ∨
    (accessOk off width = false ∧ execWr off width v s = .next (s.respond .busError)) := by
  unfold execWr
  cases accessOk off width <;> simp

/-- An instruction never stops the machine: the only fault is COMPLETE's (R103). -/
theorem exec_answers_next (i : Instr) (s : State) : ∃ t, exec i s = .next t := by
  obtain ⟨u, r, _, h | ⟨_, h⟩⟩ := exec_effect i s
  · exact ⟨u.respond r, h⟩
  · exact ⟨u, h⟩

/-- An access is either performed, and then it is not answered with BusError, or it only answers
BusError (R33, R34). -/
theorem exec_access_cases {off : Offset} {width : Nat} {v : Word} {s t : State}
    (h : exec (.rd off width) s = .next t ∨ exec (.wr off width v) s = .next t) :
    (accessOk off width = true ∧ t.resp ≠ some .busError) ∨
    (accessOk off width = false ∧ t = s.respond .busError) := by
  rcases h with hrd | hwr
  · rcases execRd_cases off width s with ⟨ha, w, _, e⟩ | ⟨ha, _, e⟩ | ⟨ha, e⟩
    · obtain rfl := Host.Outcome.next.inj (e.symm.trans hrd)
      exact .inl ⟨ha, by simp⟩
    · obtain rfl := Host.Outcome.next.inj (e.symm.trans hrd)
      exact .inl ⟨ha, by simp⟩
    · exact .inr ⟨ha, (Host.Outcome.next.inj (e.symm.trans hrd)).symm⟩
  · rcases execWr_cases off width v s with ⟨ha, e⟩ | ⟨ha, e⟩
    · obtain rfl := Host.Outcome.next.inj (e.symm.trans hwr)
      exact .inl ⟨ha, by simp⟩
    · exact .inr ⟨ha, (Host.Outcome.next.inj (e.symm.trans hwr)).symm⟩

/-- Settles O11: by `exec_access_cases` the answer is BusError exactly when the access is not one the
BRG performs, and the next state is then the old one with that answer. -/
theorem busErrorExactlyWhenMisaligned : Obligations.BusErrorExactlyWhenMisaligned := by
  unfold Obligations.BusErrorExactlyWhenMisaligned
  refine ⟨exec_answers_next, fun off width v s t h => ?_⟩
  rw [← accessOk_false_iff]
  rcases exec_access_cases h with ⟨ha, hr⟩ | ⟨ha, rfl⟩
  · exact ⟨by simp [ha, hr], fun hb => absurd hb hr⟩
  · exact ⟨by simp [ha], fun _ => rfl⟩

/-! ### The reserved offsets -/

/-- Settles O12: `locate` finds no register and no entry at such an offset, and a reserved place reads 0
and keeps the state on a write. -/
theorem reservedOffsetsReadZero : Obligations.ReservedOffsetsReadZero := by
  unfold Obligations.ReservedOffsetsReadZero
  intro off v s haligned hrange
  have ha : accessOk off 32 = true := (accessOk_iff off 32).mpr ⟨rfl, haligned⟩
  have hl : locate off = .reserved off := locate_reserved off (by omega)
  constructor
  · exact readsAs_of_readWord ha (by rw [hl]; rfl)
  · exact (execWr_performed ha).trans (by rw [hl]; rfl)

end Sys2Proof.Machine
end

section
/-! PROOFS. The family 30_encoding.md: what every CMD word means (R49), the illegal words (R48) and the
no-operation (R45). First the fields of a word as numbers, then what a word decodes to and what a write of
it to CMD does, then how an illegal word ends. -/

namespace Sys2Proof

/-! ### The fields of a CMD word as numbers (R43) -/

variable (w : Word)

theorem cmdStart_eq : cmdStart w = decide (w.toNat % 2 = 1) := by
  rw [cmdStart, BitVec.getLsbD, Nat.testBit_zero]

theorem cmdNullin_eq : cmdNullin w = decide (w.toNat / 16 % 2 = 1) :=
  Nat.testBit_eq_decide_div_mod_eq

theorem cmdOp_toNat : (cmdOp w).toNat = w.toNat / 2 % 8 := by
  rw [cmdOp, BitVec.extractLsb'_toNat, Nat.shiftRight_eq_div_pow]

theorem cmdRsv_toNat : (cmdRsv w).toNat = w.toNat / 32 := by
  have h := w.isLt
  rw [cmdRsv, BitVec.extractLsb'_toNat, Nat.shiftRight_eq_div_pow]
  omega

theorem cmdStart_eq_true_iff : cmdStart w = true ↔ w.toNat % 2 = 1 := by
  rw [cmdStart_eq, decide_eq_true_iff]

theorem cmdStart_eq_false_iff : cmdStart w = false ↔ w.toNat % 2 = 0 := by
  rw [cmdStart_eq, decide_eq_false_iff_not, Nat.mod_two_not_eq_one]

theorem cmdRsv_eq_zero_iff : cmdRsv w = 0#27 ↔ w.toNat / 32 = 0 := by
  rw [← cmdRsv_toNat, ← BitVec.toNat_inj, BitVec.toNat_zero]

/-! ### What a word decodes to -/

/-- The row of operation number `op` when no reserved bit is set: the five operations, and the three
operation numbers that name none (R47, R48). -/
def opRow (op : BitVec 3) (nullin : Bool) : Instr :=
  match op with
  | 0b000#3 => .encRaw nullin
  | 0b001#3 => .decRaw nullin
  | 0b010#3 => .encSym nullin
  | 0b011#3 => .decSym nullin
  | 0b100#3 => .beMin nullin
  | 0b101#3 => .illegalOp5 nullin
  | 0b110#3 => .illegalOp6 nullin
  | _ => .illegalOp7 nullin

/-- The operation numbers. -/
theorem op_cases (op : BitVec 3) :
    op = 0b000#3 ∨ op = 0b001#3 ∨ op = 0b010#3 ∨ op = 0b011#3 ∨
    op = 0b100#3 ∨ op = 0b101#3 ∨ op = 0b110#3 ∨ op = 0b111#3 := by
  revert op
  decide

variable {w}

theorem decodeCmd_of_noStart (h : cmdStart w = false) : decodeCmd w = .nop (w.extractLsb' 1 31) :=
  if_pos h

theorem decodeCmd_of_rsv (h : cmdStart w = true) (hr : cmdRsv w ≠ 0#27) :
    decodeCmd w = .illegalRsv (cmdOp w) (cmdNullin w) (cmdRsv w) := by
  simp [decodeCmd, h, hr]

theorem decodeCmd_of_op (h : cmdStart w = true) (hr : cmdRsv w = 0#27) :
    decodeCmd w = opRow (cmdOp w) (cmdNullin w) := by
  rcases op_cases (cmdOp w) with ho | ho | ho | ho | ho | ho | ho | ho <;> simp [decodeCmd, opRow, h, hr, ho]

/-- With no reserved bit set, the row is the one of the operation number. -/
theorem decodeCmd_of_op_eq {op : BitVec 3} (h : cmdStart w = true) (hr : cmdRsv w = 0#27)
    (ho : w.toNat / 2 % 8 = op.toNat) :
    decodeCmd w = opRow op (decide (w.toNat / 16 % 2 = 1)) := by
  have hop : cmdOp w = op := BitVec.eq_of_toNat_eq ((cmdOp_toNat w).trans ho)
  rw [decodeCmd_of_op h hr, hop, cmdNullin_eq]

end Sys2Proof

namespace Sys2Proof.Machine

variable {s : State} {w : Word} {i : Instr} {op : BitVec 3} {nullin rsv : Bool}

theorem isStartRow_opRow (op : BitVec 3) (nullin : Bool) : IsStartRow (opRow op nullin) := by
  rcases op_cases op with rfl | rfl | rfl | rfl | rfl | rfl | rfl | rfl <;> trivial

/-- The illegal operation numbers are 5, 6 and 7. -/
theorem isIllegalRow_opRow (op : BitVec 3) (nullin : Bool) :
    IsIllegalRow (opRow op nullin) ↔ 5 ≤ op.toNat := by
  rcases op_cases op with rfl | rfl | rfl | rfl | rfl | rfl | rfl | rfl <;> simp [opRow, IsIllegalRow]

/-- A word is a START row exactly when its bit 0 is set. -/
theorem isStartRow_decodeCmd (w : Word) : IsStartRow (decodeCmd w) ↔ cmdStart w = true := by
  cases h : cmdStart w
  · simp [decodeCmd_of_noStart h, IsStartRow]
  · by_cases hr : cmdRsv w = 0#27
    · simp [decodeCmd_of_op h hr, isStartRow_opRow]
    · simp [decodeCmd_of_rsv h hr, IsStartRow]

/-- A START word is illegal exactly when a reserved bit is set or its operation number is 5 or more. -/
theorem isIllegalRow_decodeCmd (h : cmdStart w = true) :
    IsIllegalRow (decodeCmd w) ↔ cmdRsv w ≠ 0#27 ∨ 5 ≤ (cmdOp w).toNat := by
  by_cases hr : cmdRsv w = 0#27
  · simp [decodeCmd_of_op h hr, isIllegalRow_opRow, hr]
  · simp [decodeCmd_of_rsv h hr, IsIllegalRow, hr]

/-- The same, on the number of the word. -/
theorem isIllegalRow_decodeCmd_iff (h : w.toNat % 2 = 1) :
    IsIllegalRow (decodeCmd w) ↔ w.toNat / 32 ≠ 0 ∨ w.toNat / 2 % 8 ≥ 5 := by
  rw [isIllegalRow_decodeCmd ((cmdStart_eq_true_iff w).mpr h), Ne, cmdRsv_eq_zero_iff, cmdOp_toNat]

/-- The legal START words, with NULLIN clear and with NULLIN set (R49). -/
theorem decodeCmd_legalStart_iff (w : Word) :
    IsStartRow (decodeCmd w) ∧ ¬ IsIllegalRow (decodeCmd w) ↔
      w.toNat ∈ [0x01, 0x03, 0x05, 0x07, 0x09, 0x11, 0x13, 0x15, 0x17, 0x19] := by
  have hfields : IsStartRow (decodeCmd w) ∧ ¬ IsIllegalRow (decodeCmd w) ↔
      w.toNat % 2 = 1 ∧ ¬ (w.toNat / 32 ≠ 0 ∨ w.toNat / 2 % 8 ≥ 5) := by
    rw [isStartRow_decodeCmd, cmdStart_eq_true_iff]
    exact and_congr_right fun h => not_congr (isIllegalRow_decodeCmd_iff h)
  rw [hfields]
  simp only [List.mem_cons, List.not_mem_nil, or_false]
  omega

/-! ### What a write to CMD does -/

theorem exec_nop (rest : BitVec 31) (s : State) : exec (.nop rest) s = .next (s.respond .written) := rfl

theorem exec_illegalRsv (op : BitVec 3) (nullin : Bool) (rsv : BitVec 27) (s : State) :
    exec (.illegalRsv op nullin rsv) s = .next (s.command op nullin (rsv != 0#27)) := rfl

theorem exec_opRow (op : BitVec 3) (nullin : Bool) (s : State) :
    exec (opRow op nullin) s = .next (s.command op nullin false) := by
  rcases op_cases op with rfl | rfl | rfl | rfl | rfl | rfl | rfl | rfl <;> rfl

/-- A 32-bit write to CMD is performed whether the BRG is busy or not (R54, R55). -/
theorem exec_wr_cmd (w : Word) (s : State) :
    exec (.wr 0x004#12 32 w) s = .next ((s.writeCmd w).respond .written) :=
  execWr_performed (by decide)

theorem exec_wr_cmd_of_noStart (h : cmdStart w = false) (s : State) :
    exec (.wr 0x004#12 32 w) s = .next (s.respond .written) := by
  rw [exec_wr_cmd, State.writeCmd, if_pos h]

theorem exec_wr_cmd_of_start (h : cmdStart w = true) (s : State) :
    exec (.wr 0x004#12 32 w) s = .next (s.command (cmdOp w) (cmdNullin w) (cmdRsv w != 0#27)) := by
  rw [exec_wr_cmd, State.writeCmd, if_neg (by simp [h]), State.command]

/-- A write of a word to CMD does what the row it decodes to does (R44). -/
theorem exec_wr_cmd_eq_exec_decodeCmd (w : Word) (s : State) :
    exec (.wr 0x004#12 32 w) s = exec (decodeCmd w) s := by
  cases h : cmdStart w
  · rw [exec_wr_cmd_of_noStart h, decodeCmd_of_noStart h, exec_nop]
  · rw [exec_wr_cmd_of_start h]
    by_cases hr : cmdRsv w = 0#27
    · rw [decodeCmd_of_op h hr, exec_opRow, hr, bne_self_eq_false]
    · rw [decodeCmd_of_rsv h hr, exec_illegalRsv]

/-- From an idle state a START word latches its own fields. -/
theorem exec_decodeCmd_idle (h : cmdStart w = true) (hb : s.busy = false) :
    exec (decodeCmd w) s =
      .next ((s.start (cmdOp w) (cmdNullin w) (cmdRsv w != 0#27)).respond .written) := by
  rw [← exec_wr_cmd_eq_exec_decodeCmd, exec_wr_cmd_of_start h, State.command_idle hb]

/-- Settles O4: a word's row is decided by its START, RSV and OP fields (`decodeCmd_of_noStart`,
`isIllegalRow_decodeCmd`, `decodeCmd_of_op_eq`), and a write of it to CMD runs that row, which latches the
same fields. -/
theorem cmdWordsDecodeAsR49 : Obligations.CmdWordsDecodeAsR49 := by
  unfold Obligations.CmdWordsDecodeAsR49
  intro w
  refine ⟨fun h => ⟨_, decodeCmd_of_noStart ((cmdStart_eq_false_iff w).mpr h)⟩,
    fun h => (isIllegalRow_decodeCmd_iff h).mpr, ?ops, decodeCmd_legalStart_iff w,
    exec_wr_cmd_eq_exec_decodeCmd w, ?latch⟩
  case ops =>
    intro h hr
    rw [← cmdStart_eq_true_iff] at h
    rw [← cmdRsv_eq_zero_iff] at hr
    exact ⟨decodeCmd_of_op_eq (op := 0b000#3) h hr, decodeCmd_of_op_eq (op := 0b001#3) h hr,
      decodeCmd_of_op_eq (op := 0b010#3) h hr, decodeCmd_of_op_eq (op := 0b011#3) h hr,
      decodeCmd_of_op_eq (op := 0b100#3) h hr⟩
  case latch =>
    intro s hb h
    rw [← cmdStart_eq_true_iff] at h
    exact ⟨_, exec_decodeCmd_idle h hb, cmdOp_toNat w, cmdNullin_eq w,
      by simp [isIllegalRow_decodeCmd h]⟩

/-! ### How an illegal word ends -/

/-- EXEC answers IllegalCommand before it looks at any operand (60_exceptions.md R88). -/
theorem opResult_illegal (h : rsv = true ∨ 5 ≤ op.toNat) (nullin : Bool) (ws : List Byte) (len : Nat)
    (inp : Memory) : opResult op nullin rsv ws len inp = .err .illegalCommand 0#8 0#8 := by
  rw [opResult, if_pos (by simpa using h)]

theorem State.commitErr_failed (kind : ErrKind) (index value : Byte) (s : State) :
    (s.commitErr kind index value).Failed kind.code index value :=
  ⟨rfl, rfl, rfl, rfl, rfl, rfl, rfl, fun _ => rfl⟩

/-- An accepted START of an illegal command completes with IllegalCommand, whatever the operands. -/
theorem performs_illegal (hb : s.busy = false) (he : exec i s = .next (s.command op nullin rsv))
    (h : rsv = true ∨ 5 ≤ op.toNat) : ∃ u, Performs i s u ∧ u.Failed 4#3 0#8 0#8 := by
  rw [State.command_idle hb] at he
  have hc : complete ((s.start op nullin rsv).respond .written) =
      .next (((s.start op nullin rsv).respond .written).commitErr .illegalCommand 0#8 0#8) := by
    simp [complete, State.result, opResult_illegal h]
  exact ⟨_, ⟨_, he, rfl, hc⟩, State.commitErr_failed ..⟩

/-- A well-formed illegal row issues a command with reserved bits or an operation number of 5 or more. -/
theorem exec_illegalRow (hi : IsIllegalRow i) (hwf : i.wellFormed = true) (s : State) :
    ∃ op nullin rsv, exec i s = .next (s.command op nullin rsv) ∧ (rsv = true ∨ 5 ≤ op.toNat) := by
  cases i with
  | illegalOp5 nullin => exact ⟨_, _, _, exec_opRow 0b101#3 nullin s, .inr (by decide)⟩
  | illegalOp6 nullin => exact ⟨_, _, _, exec_opRow 0b110#3 nullin s, .inr (by decide)⟩
  | illegalOp7 nullin => exact ⟨_, _, _, exec_opRow 0b111#3 nullin s, .inr (by decide)⟩
  | illegalRsv op nullin rsv => exact ⟨_, _, _, exec_illegalRsv op nullin rsv s, .inl hwf⟩
  | _ => exact hi.elim

/-- Settles O31: an illegal row and the write of an illegal word both issue a command that
`performs_illegal` applies to. -/
theorem illegalWordsFollowR48 : Obligations.IllegalWordsFollowR48 := by
  unfold Obligations.IllegalWordsFollowR48
  refine fun s hb => ⟨fun i hi hwf => ?_, fun w hstart hillegal => ?_⟩
  · obtain ⟨op, nullin, rsv, he, h⟩ := exec_illegalRow hi hwf s
    exact performs_illegal hb he h
  · rw [← cmdOp_toNat, Ne, ← cmdRsv_eq_zero_iff] at hillegal
    exact performs_illegal hb (exec_wr_cmd_of_start ((cmdStart_eq_true_iff w).mpr hstart) s)
      (by simpa using hillegal)

/-! ### The no-operation -/

/-- Settles O13: the row `nop` and a CMD write with START = 0 both only answer that the write was
accepted. -/
theorem nopChangesNothing : Obligations.NopChangesNothing := by
  unfold Obligations.NopChangesNothing
  exact fun s => ⟨fun r => exec_nop r s,
    fun w h => exec_wr_cmd_of_noStart ((cmdStart_eq_false_iff w).mpr h) s⟩

end Sys2Proof.Machine
end

section
/-! PROOFS. The family 40_command_execution.md: the bus accesses (R53, R54), START (R56), what a running
operation leaves unwritten (R55, R57) and the two ends of a completion (R60, R61). First what a write
answers at each place, then the words a read answers, then the lengths of the operations' results. -/

namespace Sys2Proof

variable (v : Word)

theorem cmdOp_eq_ofNat : cmdOp v = BitVec.ofNat 3 (v.toNat / 2) :=
  BitVec.eq_of_toNat_eq ((cmdOp_toNat v).trans (BitVec.toNat_ofNat (v.toNat / 2) 3).symm)

/-- The two spellings of "these bits are not all zero". -/
theorem bne_zero_eq_decide {n : Nat} (x : BitVec n) : (x != 0#n) = decide (x ≠ 0#n) := by
  rw [Bool.eq_iff_iff, bne_iff_ne, decide_eq_true_iff]

theorem cmdRsv_bne_zero : (cmdRsv v != 0#27) = decide (v.toNat / 32 ≠ 0) := by
  rw [bne_zero_eq_decide, decide_eq_decide, Ne, cmdRsv_eq_zero_iff]

end Sys2Proof

namespace Sys2Proof.Machine

section Writes

variable {s t : State} {i : Instr} {v : Word} {off : Offset} {op : BitVec 3} {nullin rsv : Bool}

/-! ### START and the ignored START (R56, R57) -/

/-- A command issued in an idle state is a START. -/
theorem starts_of_command (hb : s.busy = false) (he : exec i s = .next (s.command op nullin rsv)) :
    Starts s i op nullin rsv := by
  rw [State.command_idle hb] at he
  exact he

/-- A command issued while an operation runs only sets WBUSY. -/
theorem ignored_of_command (hb : s.busy = true) (he : exec i s = .next (s.command op nullin rsv)) :
    Ignored s i := by
  rw [State.command_busy hb] at he
  exact he

/-- From an idle state the row of an operation number starts it. -/
theorem starts_opRow (hb : s.busy = false) (op : BitVec 3) (nullin : Bool) :
    Starts s (opRow op nullin) op nullin false :=
  starts_of_command hb (exec_opRow op nullin s)

/-- From an idle state a CMD write with bit 0 set starts what the fields of its word name. -/
theorem starts_wr_cmd (hb : s.busy = false) (hv : cmdStart v = true) :
    Starts s (.wr 0x004#12 32 v) (BitVec.ofNat 3 (v.toNat / 2)) (cmdNullin v)
      (decide (v.toNat / 32 ≠ 0)) := by
  rw [← cmdOp_eq_ofNat, ← cmdRsv_bne_zero]
  exact starts_of_command hb (exec_wr_cmd_of_start hv s)

theorem ignored_startRow (hb : s.busy = true) (hi : IsStartRow i) : Ignored s i := by
  obtain ⟨op, nullin, rsv, he⟩ := exec_startRow hi s
  exact ignored_of_command hb he

theorem ignored_wr_cmd (hb : s.busy = true) (hv : cmdStart v = true) : Ignored s (.wr 0x004#12 32 v) :=
  ignored_of_command hb (exec_wr_cmd_of_start hv s)

/-! ### Writes to IN_LEN, IN and the read-only places (R54, R55) -/

theorem execWr_refused {width : Nat} (ha : accessOk off width = false) (v : Word) (s : State) :
    execWr off width v s = .next (s.respond .busError) := by
  simp [execWr, ha]

/-- A performed write answers the state its place's rule gives. -/
theorem exec_wr_of_writeWord {u : State} (ha : accessOk off 32 = true)
    (h : s.writeWord v (locate off) = u) : exec (.wr off 32 v) s = .next (u.respond .written) := by
  rw [← h]
  exact execWr_performed ha

/-- A performed write that its place's rule ignores only sets WBUSY. -/
theorem ignored_of_writeWord (ha : accessOk off 32 = true) (h : s.writeWord v (locate off) = s.ignoreWrite) :
    Ignored s (.wr off 32 v) :=
  exec_wr_of_writeWord ha h

theorem exec_wr_inLen_idle (hb : s.busy = false) (v : Word) :
    exec (.wr 0x010#12 32 v) s = .next ((s.setInLen v).respond .written) :=
  exec_wr_of_writeWord (by decide) (if_neg (by simp [hb]))

theorem ignored_wr_inLen (hb : s.busy = true) (v : Word) : Ignored s (.wr 0x010#12 32 v) :=
  ignored_of_writeWord (by decide) (if_pos hb)

theorem exec_wr_inEntry_idle (hb : s.busy = false) (v : Word) (i : Index) :
    exec (.wr (BitVec.ofNat 12 (0x400 + 4 * i.toNat)) 32 v) s =
      .next ((s.writeInput i v).respond .written) :=
  exec_wr_of_writeWord (accessOk_inEntry i) (by simp [State.writeWord, hb])

theorem ignored_wr_inEntry (hb : s.busy = true) (v : Word) (i : Index) :
    Ignored s (.wr (BitVec.ofNat 12 (0x400 + 4 * i.toNat)) 32 v) :=
  ignored_of_writeWord (accessOk_inEntry i) (by simp [State.writeWord, hb])

/-- A performed write to a place whose rule keeps the state is only answered. -/
theorem exec_wr_kept (ha : off.toNat % 4 = 0) (h : s.writeWord v (locate off) = s) :
    exec (.wr off 32 v) s = .next { s with resp := some .written } :=
  exec_wr_of_writeWord ((accessOk_iff off 32).mpr ⟨rfl, ha⟩) h

/-- An offset in the range of OUT is an entry of OUT. -/
theorem locate_eq_outEntry (hlo : 0x800 ≤ off.toNat) (hhi : off.toNat < 0xC00) :
    ∃ i, locate off = .outEntry i := by
  rw [locate, if_neg (by omega), if_neg (by omega), if_pos hhi]
  exact ⟨_, rfl⟩

/-- The places no write changes: the read-only registers, OUT and the reserved offsets. -/
theorem writeWord_ignoring (v : Word) (s : State)
    (h : off = 0x000#12 ∨ off = 0x014#12 ∨ off = 0x018#12 ∨
      (0x01C ≤ off.toNat ∧ off.toNat < 0x400) ∨ 0x800 ≤ off.toNat) :
    s.writeWord v (locate off) = s := by
  rcases h with rfl | rfl | rfl | hres | hhigh
  · rfl
  · rfl
  · rfl
  · rw [locate_reserved off (.inl hres)]
    rfl
  · by_cases hout : off.toNat < 0xC00
    · obtain ⟨i, hl⟩ := locate_eq_outEntry hhigh hout
      rw [hl]
      rfl
    · rw [locate_reserved off (.inr (by omega))]
      rfl

/-- Only offset 0x008 is STATUS. -/
theorem eq_of_locate_status (h : locate off = .status) : off = 0x008#12 := by
  unfold locate at h
  split_ifs at h with _ _ _ hoff
  exact hoff

/-! ### What clears WBUSY, and what a running operation keeps (R55, R57) -/

/-- A command clears WBUSY only by starting. -/
theorem command_clears_wbusy (hc : (s.command op nullin rsv).wbusy = false) :
    s.busy = false ∧ (s.command op nullin rsv).busy = true := by
  cases hb : s.busy
  · exact ⟨rfl, by rw [State.command_idle hb]; rfl⟩
  · rw [State.command_busy hb] at hc
    cases hc

/-- A write to a place clears WBUSY only at STATUS, by bit 8, or by starting. -/
theorem writeWord_clears_wbusy {l : Loc} (hw : s.wbusy = true) (hc : (s.writeWord v l).wbusy = false) :
    (l = .status ∧ v.getLsbD 8 = true) ∨ (s.busy = false ∧ (s.writeWord v l).busy = true) := by
  rcases s.writeWord_cases v l with
    h | ⟨_, _, hb, h⟩ | ⟨_, h⟩ | ⟨hl, h⟩ | ⟨_, h⟩ | ⟨_, _, h⟩ | ⟨_, _, _, h⟩ <;> rw [h] at hc ⊢
  · simp [hw] at hc
  · exact .inr ⟨hb, rfl⟩
  · simp at hc
  · exact .inl ⟨hl, by simpa [hw] using hc⟩
  · simp [hw] at hc
  · simp [hw] at hc
  · simp [hw] at hc

/-- No instruction clears WBUSY but a STATUS write with bit 8 set and an accepted START. -/
theorem exec_clears_wbusy (hw : s.wbusy = true) (he : exec i s = .next t) (ht : t.wbusy = false) :
    (∃ v : Word, i = .wr 0x008#12 32 v ∧ v.getLsbD 8 = true) ∨ (s.busy = false ∧ t.busy = true) := by
  rcases exec_cases i s with ⟨op, n, r, h⟩ | ⟨r, _, h⟩ | ⟨off, width, _, h⟩ | ⟨off, width, v, hi, h⟩
  · obtain rfl := Host.Outcome.next.inj (h.symm.trans he)
    exact .inr (command_clears_wbusy ht)
  · obtain rfl := Host.Outcome.next.inj (h.symm.trans he)
    simp [hw] at ht
  · rcases execRd_cases off width s with ⟨_, w, _, e⟩ | ⟨_, _, e⟩ | ⟨_, e⟩ <;>
      obtain rfl := Host.Outcome.next.inj ((h.trans e).symm.trans he) <;> simp [hw] at ht
  · rcases execWr_cases off width v s with ⟨ha, e⟩ | ⟨_, e⟩ <;>
      obtain rfl := Host.Outcome.next.inj ((h.trans e).symm.trans he)
    · rcases writeWord_clears_wbusy hw ht with ⟨hl, hv⟩ | hstart
      · obtain ⟨rfl, _⟩ := (accessOk_iff off width).mp ha
        exact .inl ⟨v, by rw [hi, eq_of_locate_status hl], hv⟩
      · exact .inr hstart
    · simp [hw] at ht

/-- COMPLETE leaves WBUSY as it is. -/
theorem complete_wbusy (h : complete s = .next t) : t.wbusy = s.wbusy := by
  rcases complete_eq_next h with ⟨out, _, rfl⟩ | ⟨kind, index, value, _, rfl⟩ <;> rfl

/-- While BUSY no effect of an instruction reaches BUSY, the latched command, the parameters or the
operands, and so none reaches what EXEC will answer. -/
theorem Effect.busy_keeps {u : State} (h : Effect s u) (hb : s.busy = true) :
    u.busy = true ∧ u.result = s.result ∧ u.inLen = s.inLen ∧ u.inBuf = s.inBuf := by
  cases h with
  | none => exact ⟨hb, rfl, rfl, rfl⟩
  | free => exact ⟨hb, rfl, rfl, rfl⟩
  | ignored _ => exact ⟨hb, rfl, rfl, rfl⟩
  | clear v => exact ⟨hb, rfl, rfl, rfl⟩
  | enable v => exact ⟨hb, rfl, rfl, rfl⟩
  | start _ _ _ hidle => simp [hb] at hidle
  | length _ hidle => simp [hb] at hidle
  | entry _ _ hidle => simp [hb] at hidle

/-- While BUSY an instruction leaves the running operation as it was. -/
theorem exec_busy_keeps (hb : s.busy = true) (he : exec i s = .next t) :
    t.busy = true ∧ t.result = s.result ∧ t.inLen = s.inLen ∧ t.inBuf = s.inBuf := by
  obtain ⟨u, r, heff, h | ⟨_, h⟩⟩ := exec_effect i s <;>
    obtain rfl := Host.Outcome.next.inj (h.symm.trans he)
  · exact heff.busy_keeps hb
  · exact heff.busy_keeps hb

end Writes

/-- Settles O17: every START row and every CMD write with bit 0 set issues a command, which an idle state
takes as a START. -/
theorem startFollowsR56 : Obligations.StartFollowsR56 := by
  unfold Obligations.StartFollowsR56
  intro s hb
  refine ⟨fun n => ?rows, fun op n r => ?reserved, fun v hv => ?write⟩
  case rows =>
    exact ⟨starts_opRow hb 0b000#3 n, starts_opRow hb 0b001#3 n, starts_opRow hb 0b010#3 n,
      starts_opRow hb 0b011#3 n, starts_opRow hb 0b100#3 n, starts_opRow hb 0b101#3 n,
      starts_opRow hb 0b110#3 n, starts_opRow hb 0b111#3 n⟩
  case reserved =>
    rw [← bne_zero_eq_decide]
    exact starts_of_command hb (exec_illegalRsv op n r s)
  case write =>
    rw [← cmdNullin_eq]
    exact starts_wr_cmd hb ((cmdStart_eq_true_iff v).mpr hv)

/-- Settles O10: one lemma for each place that takes a write, and `writeWord_ignoring` for all others. -/
theorem writesFollowR54 : Obligations.WritesFollowR54 := by
  unfold Obligations.WritesFollowR54
  intro s v
  refine ⟨fun off width h => execWr_refused ((accessOk_false_iff off width).mpr h) v s,
    fun hv => exec_wr_cmd_of_noStart hv s,
    fun hv hb => ignored_wr_cmd hb hv, fun hv hb => starts_wr_cmd hb hv, ?status,
    exec_wr_intEn v s, fun hb => ignored_wr_inLen hb v, fun hb => ?inLen,
    fun i => ⟨fun hb => ignored_wr_inEntry hb v i, fun hb => ?inEntry⟩,
    fun off ha h => exec_wr_kept ha (writeWord_ignoring v s h)⟩
  case status =>
    rw [exec_wr_status]
    simp only [State.clearStatus, State.respond]
    cases v.getLsbD 1 <;> cases v.getLsbD 8 <;> simp
  case inLen =>
    have hlen : BitVec.ofNat 9 (v.toNat % 512) = v.setWidth 9 :=
      BitVec.eq_of_toNat_eq (by simp)
    rw [exec_wr_inLen_idle hb, hlen]
    rfl
  case inEntry =>
    have hbyte : BitVec.ofNat 8 (v.toNat % 256) = v.setWidth 8 :=
      BitVec.eq_of_toNat_eq (by simp)
    refine ⟨_, exec_wr_inEntry_idle hb v i, rfl, ?_, fun j hj => Memory.read_write_other _ _ hj⟩
    rw [hbyte]
    exact Memory.read_write_same ..

/-- Settles O19: a running operation ignores each START and each write to an operand, `exec_clears_wbusy`
says what clears WBUSY, and `exec_busy_keeps` what a running operation keeps. -/
theorem busyIgnoresOperandWrites : Obligations.BusyIgnoresOperandWrites := by
  unfold Obligations.BusyIgnoresOperandWrites
  refine ⟨fun s v hb => ?ignored, fun s v off h => ?readOnly, fun _ _ _ => exec_clears_wbusy,
    fun _ _ => complete_wbusy, fun i s t hb he => ?kept⟩
  case ignored =>
    exact ⟨fun i hi => ignored_startRow hb hi,
      fun hv => ignored_wr_cmd hb ((cmdStart_eq_true_iff v).mpr hv), ignored_wr_inLen hb v,
      ignored_wr_inEntry hb v, exec_wr_status v s, exec_wr_intEn v s⟩
  case readOnly =>
    rcases h with rfl | rfl | rfl | ⟨i, rfl⟩
    · exact exec_wr_kept rfl rfl
    · exact exec_wr_kept rfl rfl
    · exact exec_wr_kept rfl rfl
    · exact exec_wr_kept ((accessOk_iff _ _).mp (accessOk_outEntry i)).2 (by rw [locate_outEntry]; rfl)
  case kept =>
    obtain ⟨hbusy, hresult, hlen, hbuf⟩ := exec_busy_keeps hb he
    exact ⟨hbusy, hresult, hlen, fun j => by rw [hbuf]⟩

/-! ### The words a read answers (R53) -/

theorem execRd_refused {off : Offset} {width : Nat} (ha : accessOk off width = false) (s : State) :
    execRd off width s = .next (s.respond .busError) := by
  simp [execRd, ha]

theorem ofBool_word_toNat (b : Bool) : ((BitVec.ofBool b).setWidth 32).toNat = b.toNat := by
  cases b <;> rfl

/-- The fields of STATUS by their bit places (10_state.md R18): seven bits, so all the words there are. -/
theorem State.statusWord_toNat (s : State) :
    s.statusWord.toNat =
      256 * s.wbusy.toNat + 16 * s.errCode.toNat + 4 * s.err.toNat + 2 * s.done.toNat + s.busy.toNat := by
  unfold State.statusWord
  generalize s.wbusy = wbusy, s.errCode = errCode, s.err = err, s.done = done, s.busy = busy
  revert wbusy errCode err done busy
  decide

/-- The fields of ERR_INFO by their bit places (10_state.md R22). -/
theorem State.errInfoWord_toNat (s : State) :
    s.errInfoWord.toNat = 256 * s.errValue.toNat + s.errIndex.toNat := by
  have hv := s.errValue.isLt
  have hi := s.errIndex.isLt
  have hor : s.errValue.toNat <<< 8 ||| s.errIndex.toNat = s.errValue.toNat <<< 8 + s.errIndex.toNat :=
    (Nat.shiftLeft_add_eq_or_of_lt hi _).symm
  have hshift : s.errValue.toNat <<< 8 = s.errValue.toNat * 256 := Nat.shiftLeft_eq ..
  rw [State.errInfoWord, BitVec.toNat_or, BitVec.toNat_shiftLeft, BitVec.toNat_setWidth,
    BitVec.toNat_setWidth, Nat.mod_eq_of_lt (by omega : s.errValue.toNat < 2 ^ 32),
    Nat.mod_eq_of_lt (by omega : s.errIndex.toNat < 2 ^ 32),
    Nat.mod_eq_of_lt (by omega : s.errValue.toNat <<< 8 < 2 ^ 32), hor]
  omega

section Entries

variable {s : State} {i : Index} {b : Byte}

theorem readsAs_inEntry (h : s.inBuf.read i.toNat = some b) :
    ReadsAs s (BitVec.ofNat 12 (0x400 + 4 * i.toNat)) (BitVec.ofNat 32 b.toNat) :=
  readsAs_of_readWord (accessOk_inEntry i) (by simp [State.readWord, h])

theorem readsAs_outEntry (h : s.outBuf.read i.toNat = some b) :
    ReadsAs s (BitVec.ofNat 12 (0x800 + 4 * i.toNat)) (BitVec.ofNat 32 b.toNat) :=
  readsAs_of_readWord (accessOk_outEntry i) (by simp [State.readWord, h])

theorem exec_rd_inEntry_free (h : s.inBuf.read i.toNat = none) :
    exec (.rd (BitVec.ofNat 12 (0x400 + 4 * i.toNat)) 32) s = .next s.respondFree :=
  execRd_free (accessOk_inEntry i) (by simp [State.readWord, h])

theorem exec_rd_outEntry_free (h : s.outBuf.read i.toNat = none) :
    exec (.rd (BitVec.ofNat 12 (0x800 + 4 * i.toNat)) 32) s = .next s.respondFree :=
  execRd_free (accessOk_outEntry i) (by simp [State.readWord, h])

end Entries

/-- Settles O9: each place's word is what `State.readWord` gives there, with STATUS and ERR_INFO by their
bit places, and a place without a value answers a free byte. -/
theorem readsFollowR53 : Obligations.ReadsFollowR53 := by
  unfold Obligations.ReadsFollowR53
  intro s
  have outLenRead : ReadsAs s 0x014#12 (s.outLen.setWidth 32) := readsAs_of_readWord (by decide) rfl
  refine ⟨fun off width h => execRd_refused ((accessOk_false_iff off width).mpr h) s,
    readsAs_of_readWord (by decide) rfl, readsAs_of_readWord (by decide) rfl,
    ⟨_, readsAs_of_readWord (by decide) rfl, s.statusWord_toNat⟩,
    ⟨_, readsAs_of_readWord (by decide) rfl, ofBool_word_toNat s.intEn⟩,
    ⟨_, readsAs_of_readWord (by decide) rfl, BitVec.toNat_setWidth_of_le (by decide)⟩,
    ⟨_, outLenRead, BitVec.toNat_setWidth_of_le (by decide)⟩,
    ⟨_, readsAs_of_readWord (by decide) rfl, s.errInfoWord_toNat⟩,
    fun _ _ => readsAs_inEntry, fun _ _ => readsAs_outEntry,
    fun i h => ?inFree, fun i h => ?outFree, fun off ha h => ?reserved, fun hlegal hb => ?busy⟩
  case inFree =>
    rw [exec_rd_inEntry_free h, BitVec.ofNat_toNat]
    rfl
  case outFree =>
    rw [exec_rd_outEntry_free h, BitVec.ofNat_toNat]
    rfl
  case reserved => exact (reservedOffsetsReadZero off 0#32 s ha (by omega)).1
  case busy =>
    have hzero : s.outLen = 0#9 := hlegal.1 (.inl hb)
    rw [hzero] at outLenRead
    exact outLenRead

/-! ### The lengths of the results (R60: every operation's output fits in OUT_CAP) -/

/-- Accumulating digits of `k` bits, `n` of them give a number of `k * n` bits. -/
theorem foldl_digits_lt {k w : Nat} (ds : List (BitVec w)) (hk : w ≤ k) (acc n : Nat)
    (hacc : acc < 2 ^ (k * n)) :
    ds.foldl (fun acc x => acc <<< k ||| x.toNat) acc < 2 ^ (k * (n + ds.length)) := by
  induction ds generalizing acc n with
  | nil => exact hacc
  | cons d ds ih =>
    have hd : d.toNat < 2 ^ (k * (n + 1)) :=
      Nat.lt_of_lt_of_le d.isLt (Nat.pow_le_pow_right (by decide) (by rw [Nat.mul_succ]; omega))
    have hs : acc <<< k < 2 ^ (k * (n + 1)) := by
      rw [Nat.shiftLeft_eq, Nat.mul_succ, Nat.pow_add]
      exact Nat.mul_lt_mul_of_pos_right hacc (Nat.two_pow_pos k)
    have := ih _ (n + 1) (Nat.or_lt_two_pow hs hd)
    rwa [Nat.add_right_comm, Nat.add_assoc] at this

/-- The number of `n` bytes has `8 n` bits (41_bigendian.md R64). -/
theorem fromBE_lt (b : List Byte) : fromBE b < 2 ^ (8 * b.length) := by
  have h := foldl_digits_lt b (Nat.le_refl 8) 0 0 (by decide)
  rwa [Nat.zero_add] at h

/-- The pivot of `n` groups has `5 n` bits (43_decode.md R75). -/
theorem fromGroups_lt (g : List Group) : fromGroups g < 2 ^ (5 * g.length) := by
  have h := foldl_digits_lt g (Nat.le_refl 5) 0 0 (by decide)
  rwa [Nat.zero_add] at h

theorem lowBytes_length_le (fuel v n : Nat) (h : v < 2 ^ (8 * n)) : (lowBytes fuel v).length ≤ n := by
  induction fuel generalizing v n with
  | zero => exact Nat.zero_le n
  | succ fuel ih =>
    rw [lowBytes]
    split
    · exact Nat.zero_le n
    · next hv =>
      cases n with
      | zero => omega
      | succ n =>
        have hlow : v >>> 8 < 2 ^ (8 * n) := by
          rw [Nat.shiftRight_eq_div_pow]
          exact Nat.div_lt_of_lt_mul (by rwa [Nat.mul_succ, Nat.add_comm, Nat.pow_add] at h)
        exact Nat.succ_le_succ (ih _ n hlow)

/-- A value of `8 n` bits has at most `n` minimal bytes (R65). -/
theorem toBE_length_le {v n : Nat} (h : v < 2 ^ (8 * n)) : (toBE v).length ≤ n := by
  rw [toBE, List.length_reverse]
  exact lowBytes_length_le _ v n h

theorem fillGroups_length (j v : Nat) (written : List Group) :
    (fillGroups j v written).length = j + written.length := by
  induction j generalizing v written with
  | zero => exact (Nat.zero_add _).symm
  | succ j ih => rw [fillGroups, ih, List.length_cons, Nat.add_right_comm, Nat.add_assoc]

theorem encGroups_length (b : List Byte) : (encGroups b).length = groupCount b.length :=
  fillGroups_length ..

/-- `k` groups decode to their exact fit of bytes or to one more. -/
theorem decBytes_length_le (g : List Group) : (decBytes g).length ≤ fitLength g.length + 1 := by
  have hfit : 5 * g.length ≤ 8 * (fitLength g.length + 1) := by
    unfold fitLength
    omega
  have hm : (toBE (fromGroups g)).length ≤ fitLength g.length + 1 :=
    toBE_length_le (Nat.lt_of_lt_of_le (fromGroups_lt g) (Nat.pow_le_pow_right (by decide) hfit))
  simp only [decBytes]
  split
  · exact hm
  · rw [List.length_append, zeros, List.length_replicate]
    omega

/-- The longest decode input, MAX_SYMBOLS groups, decodes to at most 41 bytes. -/
theorem decBytes_length_le_of_maxSymbols {g : List Group} (h : g.length ≤ Config.maxSymbols) :
    (decBytes g).length ≤ 41 := by
  have hbytes := decBytes_length_le g
  simp only [Config.maxSymbols, fitLength] at h hbytes
  omega

section Ok

variable {nullin : Bool} {len : Nat} {inp : Memory} {out : List Byte}

/-- A result that is no error came from an input read whole. -/
theorem withInput_eq_ok {f : List Byte → Result} (h : withInput inp len f = .ok out) :
    ∃ b, b.length = len ∧ f b = .ok out := by
  rcases withInput_cases inp len f with ⟨b, hl, _, e⟩ | ⟨_, _, _, e⟩ <;> rw [e] at h
  · exact ⟨b, hl, h⟩
  · cases h

theorem orInvalidSymbol_eq_ok {bad : Byte → Bool} {entries : List Byte} {k : Result}
    (h : orInvalidSymbol bad entries k = .ok out) : k = .ok out := by
  unfold orInvalidSymbol at h
  split at h
  · cases h
  · exact h

theorem encodeResult_length_le {form : Group → Byte} (h : encodeResult form nullin len inp = .ok out) :
    out.length ≤ 64 := by
  unfold encodeResult at h
  split_ifs at h with _ _ hmax
  obtain ⟨b, rfl, hb⟩ := withInput_eq_ok h
  obtain rfl := Result.ok.inj hb
  rw [List.length_map, encGroups_length]
  exact Nat.not_lt.mp hmax

theorem decRawResult_length_le (h : decRawResult nullin len inp = .ok out) : out.length ≤ 41 := by
  unfold decRawResult at h
  split_ifs at h with _ _ hmax
  obtain ⟨g, rfl, hg⟩ := withInput_eq_ok h
  obtain rfl := Result.ok.inj (orInvalidSymbol_eq_ok hg)
  exact decBytes_length_le_of_maxSymbols (by rw [List.length_map]; exact Nat.not_lt.mp hmax)

theorem decSymResult_length_le {ws : List Byte} (h : decSymResult ws nullin len inp = .ok out) :
    out.length ≤ 41 := by
  unfold decSymResult at h
  split at h
  · cases h
  split at h
  · cases h
  split at h
  · cases h
  obtain ⟨c, rfl, hc⟩ := withInput_eq_ok h
  split_ifs at hc with _ hmax
  obtain rfl := Result.ok.inj (orInvalidSymbol_eq_ok hc)
  exact decBytes_length_le_of_maxSymbols
    (Nat.le_trans (List.length_filterMap_le index c) (Nat.not_lt.mp hmax))

theorem beMinResult_length_le (h : beMinResult nullin len inp = .ok out) : out.length ≤ 256 := by
  unfold beMinResult at h
  split_ifs at h with _ hmax
  obtain ⟨b, rfl, hb⟩ := withInput_eq_ok h
  obtain rfl := Result.ok.inj hb
  exact Nat.le_trans (toBE_length_le (fromBE_lt b)) (Nat.not_lt.mp hmax)

/-- Whatever EXEC runs, its output fits OUT. -/
theorem State.result_length_le {s : State} (h : s.result = .ok out) : out.length ≤ 256 := by
  unfold State.result opResult at h
  split_ifs at h
  · exact Nat.le_trans (encodeResult_length_le h) (by decide)
  · exact Nat.le_trans (decRawResult_length_le h) (by decide)
  · exact Nat.le_trans (encodeResult_length_le h) (by decide)
  · exact Nat.le_trans (decSymResult_length_le h) (by decide)
  · exact beMinResult_length_le h

/-! ### The two ends of a completion -/

/-- A result that fits OUT is published whole. -/
theorem State.commitOk_succeeded (h : out.length ≤ 256) (s : State) : (s.commitOk out).Succeeded out := by
  refine ⟨rfl, rfl, rfl, rfl, rfl, rfl, ?_, Memory.read_fill_zero out⟩
  rw [State.commitOk_outLen, BitVec.toNat_ofNat]
  omega

theorem complete_of_ok {s : State} (h : s.result = .ok out) : complete s = .next (s.commitOk out) := by
  rw [complete, h]

theorem complete_of_err {s : State} {kind : ErrKind} {index value : Byte}
    (h : s.result = .err kind index value) : complete s = .next (s.commitErr kind index value) := by
  rw [complete, h]

end Ok

/-- Settles O20: `State.result_length_le` bounds every operation's output by OUT_CAP, and a result of that
length is published whole. -/
theorem commitOkFollowsR60 : Obligations.CommitOkFollowsR60 := by
  unfold Obligations.CommitOkFollowsR60
  intro s out h
  have hlen := State.result_length_le h
  exact ⟨hlen, _, complete_of_ok h, s.commitOk_succeeded hlen⟩

/-- Settles O21: COMPLETE commits the error, and `State.commitErr` publishes it and nothing else. -/
theorem commitErrFollowsR61 : Obligations.CommitErrFollowsR61 := by
  unfold Obligations.CommitErrFollowsR61
  exact fun s kind index value h => ⟨_, complete_of_err h, s.commitErr_failed kind index value⟩

end Sys2Proof.Machine
end

section
/-! PROOFS. The family 41_bigendian.md: the deserializer (R64), the serializer (R65), their laws (R66) and
the command `be.min` (R67). First what `fromBE` and `toBE` do with the last byte of a sequence, on which
every law rests, then how an operation ends, and `be.min` from both. -/

namespace Sys2Proof.Machine

/-! ### The deserializer (R64) -/

theorem fromBE_append_singleton (b : List Byte) (x : Byte) : fromBE (b ++ [x]) = fromBE b <<< 8 ||| x.toNat := by
  simp [fromBE]

/-- OR-ing in the bytes of `b` adds them: the bits they fall on are zero (R64). -/
theorem shiftLeft_or_fromBE (v : Nat) (b : List Byte) :
    v <<< (8 * b.length) ||| fromBE b = v * 256 ^ b.length + fromBE b := by
  rw [← Nat.shiftLeft_add_eq_or_of_lt (fromBE_lt b), Nat.shiftLeft_eq, Nat.pow_mul]

/-- R66 law 8. -/
theorem fromBE_append (b c : List Byte) : fromBE (b ++ c) = fromBE b <<< (8 * c.length) ||| fromBE c := by
  induction c using List.reverseRecOn with
  | nil => simp [fromBE]
  | append_singleton c x ih =>
    rw [← List.append_assoc, fromBE_append_singleton, fromBE_append_singleton, ih, Nat.shiftLeft_or_distrib,
      ← Nat.shiftLeft_add, Nat.or_assoc, List.length_append, List.length_singleton, Nat.mul_succ]

theorem fromBE_singleton (x : Byte) : fromBE [x] = x.toNat := Nat.zero_or _

/-- The last byte is the least significant base-256 digit. -/
theorem fromBE_append_singleton_eq_add (b : List Byte) (x : Byte) :
    fromBE (b ++ [x]) = fromBE b * 256 + x.toNat := by
  have h := shiftLeft_or_fromBE (fromBE b) [x]
  rwa [← fromBE_append, fromBE_singleton] at h

/-- The first byte is the most significant base-256 digit. -/
theorem fromBE_cons (x : Byte) (b : List Byte) : fromBE (x :: b) = x.toNat * 256 ^ b.length + fromBE b := by
  rw [← List.singleton_append, fromBE_append, fromBE_singleton, shiftLeft_or_fromBE]

theorem fromBE_eq_sum (b : List Byte) :
    fromBE b = ∑ i ∈ Finset.range b.length, (b.getD i 0#8).toNat * 256 ^ (b.length - 1 - i) := by
  induction b with
  | nil => rfl
  | cons x b ih =>
    rw [fromBE_cons, ih, List.length_cons, Finset.sum_range_succ', Nat.add_comm]
    simp [Nat.sub_sub, Nat.add_comm 1]

/-- Settles O34: the fold's own step, and the sum by `fromBE_cons`. -/
theorem fromBeFollowsR64 : Obligations.FromBeFollowsR64 := by
  unfold Obligations.FromBeFollowsR64
  exact ⟨rfl, fun b => ⟨fromBE_eq_sum b, fromBE_append_singleton b⟩⟩

/-! ### The serializer (R65) -/

@[simp] theorem toBE_zero : toBE 0 = [] := rfl

/-- One round of the loop: `lowBytes_fuel` changes the fuel left over to that of the shifted value. -/
theorem toBE_of_ne_zero {v : Nat} (hv : v ≠ 0) : toBE v = toBE (v >>> 8) ++ [BitVec.ofNat 8 v] := by
  have hlt : v >>> 8 < 2 ^ v.log2 := by
    have := Nat.lt_log2_self (n := v)
    rw [Nat.pow_succ] at this
    rw [Nat.shiftRight_eq_div_pow]
    omega
  rw [toBE, lowBytes, if_neg hv, List.reverse_cons, toBE,
    lowBytes_fuel _ _ _ hlt Nat.lt_log2_self]

theorem toBE_eq_nil_iff {v : Nat} : toBE v = [] ↔ v = 0 := by
  refine ⟨fun h => ?_, fun h => h ▸ rfl⟩
  by_contra hv
  simp [toBE_of_ne_zero hv] at h

/-- A number given by its base-256 digits other than the lowest, and its lowest. -/
theorem toBE_mul_add {v : Nat} {x : Byte} (h : v * 256 + x.toNat ≠ 0) :
    toBE (v * 256 + x.toNat) = toBE v ++ [x] := by
  have hx := x.isLt
  have hhigh : (v * 256 + x.toNat) >>> 8 = v := by
    rw [Nat.shiftRight_eq_div_pow]
    omega
  have hlow : BitVec.ofNat 8 (v * 256 + x.toNat) = x := BitVec.eq_of_toNat_eq (by
    rw [BitVec.toNat_ofNat]
    omega)
  rw [toBE_of_ne_zero h, hhigh, hlow]

/-- Settles O35: `toBE_of_ne_zero`, the low byte being the number modulo 256. -/
theorem toBeFollowsR65 : Obligations.ToBeFollowsR65 := by
  unfold Obligations.ToBeFollowsR65
  refine ⟨rfl, fun v hv => ?_⟩
  have hbyte : BitVec.ofNat 8 (v % 256) = BitVec.ofNat 8 v := BitVec.eq_of_toNat_eq (by simp)
  rw [toBE_of_ne_zero hv, hbyte]

/-! ### The laws (R66) -/

/-- R66 law 5: one round of the loop gives the value's last byte, which `fromBE` adds back. -/
theorem fromBE_toBE (v : Nat) : fromBE (toBE v) = v := by
  induction v using Nat.strongRecOn with
  | ind v ih =>
    by_cases hv : v = 0
    · rw [hv]
      rfl
    · have hdiv : v >>> 8 = v / 256 := Nat.shiftRight_eq_div_pow ..
      rw [toBE_of_ne_zero hv, fromBE_append_singleton_eq_add, ih _ (by omega), BitVec.toNat_ofNat, hdiv]
      omega

theorem strip_append_singleton (b : List Byte) (x : Byte) :
    strip (b ++ [x]) = if strip b = [] then strip [x] else strip b ++ [x] := by
  simp [strip, List.dropWhile_append]

theorem strip_singleton (x : Byte) : strip [x] = if x = 0#8 then [] else [x] := by
  simp [strip, List.dropWhile_cons]

/-- R66 law 6, from the last byte to the first: the bytes before it strip to nothing exactly when their
number is 0, and then it is stripped too exactly when it is 0. -/
theorem toBE_fromBE (b : List Byte) : toBE (fromBE b) = strip b := by
  induction b using List.reverseRecOn with
  | nil => rfl
  | append_singleton b x ih =>
    have hzero : strip b = [] ↔ fromBE b = 0 := by rw [← ih, toBE_eq_nil_iff]
    have hx : x = 0#8 ↔ x.toNat = 0 := BitVec.toNat_inj.symm
    rw [fromBE_append_singleton_eq_add, strip_append_singleton]
    by_cases hv : fromBE b * 256 + x.toNat = 0
    · rw [hv, if_pos (hzero.mpr (by omega)), strip_singleton, if_pos (hx.mpr (by omega)), toBE_zero]
    · rw [toBE_mul_add hv, ih]
      split
      · next hb =>
        have hb0 := hzero.mp hb
        rw [hb, strip_singleton, if_neg (fun h => hv (by rw [hb0, hx.mp h])), List.nil_append]
      · rfl

/-- R66 law 3: a value fits `n` bytes exactly when it has at most `8 n` bits. -/
theorem toBE_length_le_iff (v n : Nat) : (toBE v).length ≤ n ↔ v < 2 ^ (8 * n) := by
  refine ⟨fun h => ?_, toBE_length_le⟩
  calc v = fromBE (toBE v) := (fromBE_toBE v).symm
    _ < 2 ^ (8 * (toBE v).length) := fromBE_lt _
    _ ≤ 2 ^ (8 * n) := Nat.pow_le_pow_right (by decide) (Nat.mul_le_mul_left 8 h)

/-- R66 law 3 for the bit length `n` of `v`. -/
theorem toBE_length_of_bitLength {v n : Nat} (h : ∀ m, v < 2 ^ m ↔ n ≤ m) :
    (toBE v).length = (n + 7) / 8 := by
  refine eq_of_forall_ge_iff fun k => ?_
  rw [toBE_length_le_iff, h]
  omega

/-- R66 law 4: `toBE v` is its own strip, so it does not begin with a zero byte. -/
theorem toBE_head_ne_zero {v : Nat} (hv : 0 < v) : ∃ x rest, toBE v = x :: rest ∧ x ≠ 0#8 := by
  have hstrip : strip (toBE v) = toBE v := by rw [← toBE_fromBE, fromBE_toBE]
  cases h : toBE v with
  | nil => exact absurd (toBE_eq_nil_iff.mp h) (by omega)
  | cons x rest =>
    rw [h, strip, List.dropWhile_eq_self_iff] at hstrip
    exact ⟨x, rest, rfl, by simpa using hstrip⟩

theorem strip_zeros (k : Nat) : strip (zeros k) = [] := by
  simp [strip, zeros]

theorem fromBE_zeros (k : Nat) : fromBE (zeros k) = 0 := by
  rw [← toBE_eq_nil_iff, toBE_fromBE, strip_zeros]

/-- R66 law 7. -/
theorem fromBE_zeros_append (k : Nat) (b : List Byte) : fromBE (zeros k ++ b) = fromBE b := by
  rw [fromBE_append, fromBE_zeros, Nat.zero_shiftLeft, Nat.zero_or]

theorem padTo_length {n : Nat} {m : List Byte} (h : m.length ≤ n) : (padTo n m).length = n := by
  rw [padTo, List.length_append, zeros, List.length_replicate]
  omega

theorem fromBE_padTo (n : Nat) (m : List Byte) : fromBE (padTo n m) = fromBE m :=
  fromBE_zeros_append ..

/-- Settles O36: one lemma for each law. -/
theorem bigEndianLawsOfR66 : Obligations.BigEndianLawsOfR66 := by
  unfold Obligations.BigEndianLawsOfR66
  exact ⟨rfl, rfl, fromBE_lt, toBE_length_le_iff, fun _ _ => toBE_length_of_bitLength,
    fun _ => toBE_head_ne_zero, fromBE_toBE, toBE_fromBE, strip_zeros, fun b k => fromBE_zeros_append k b,
    fromBE_append, fun v n h => ⟨padTo_length (toBE_length_le h), (fromBE_padTo n _).trans (fromBE_toBE v)⟩⟩

/-! ### How an accepted operation ends -/

section Performs

variable {s : State} {i : Instr} {op : BitVec 3} {nullin rsv : Bool}

/-- An accepted START whose EXEC answers a result completes with it (40_command_execution.md R56, R60). -/
theorem performs_of_ok {out : List Byte} (hb : s.busy = false)
    (he : exec i s = .next (s.command op nullin rsv))
    (hr : opResult op nullin rsv s.params.wsSet s.inLen.toNat s.inBuf = .ok out) :
    ∃ u, Performs i s u ∧ u.Succeeded out := by
  rw [State.command_idle hb] at he
  have hresult : ((s.start op nullin rsv).respond .written).result = .ok out := hr
  exact ⟨_, ⟨_, he, rfl, complete_of_ok hresult⟩,
    State.commitOk_succeeded (State.result_length_le hresult) _⟩

/-- An accepted START whose EXEC answers an error completes with it (R56, R61). -/
theorem performs_of_err {kind : ErrKind} {index value : Byte} (hb : s.busy = false)
    (he : exec i s = .next (s.command op nullin rsv))
    (hr : opResult op nullin rsv s.params.wsSet s.inLen.toNat s.inBuf = .err kind index value) :
    ∃ u, Performs i s u ∧ u.Failed kind.code index value := by
  rw [State.command_idle hb] at he
  have hresult : ((s.start op nullin rsv).respond .written).result = .err kind index value := hr
  exact ⟨_, ⟨_, he, rfl, complete_of_err hresult⟩, State.commitErr_failed ..⟩

/-- The operation runs on the input the state holds. -/
theorem State.HoldsInput.withInput {b : List Byte} (h : s.HoldsInput b) (f : List Byte → Result) :
    withInput s.inBuf s.inLen.toNat f = f b := by
  obtain ⟨hlen, hread⟩ := h
  exact withInput_read f hlen.symm (by rwa [hlen])

end Performs

/-! ### The command `be.min` (R67) -/

theorem opResult_beMin (nullin : Bool) (ws : List Byte) (len : Nat) (inp : Memory) :
    opResult 0b100#3 nullin false ws len inp = beMinResult nullin len inp := rfl

theorem beMinResult_tooLarge {len : Nat} (h : 257 ≤ len) (inp : Memory) :
    beMinResult false len inp = .err .tooLarge 0#8 0#8 := by
  have hcap : len > Config.inCap := h
  simp [beMinResult, hcap]

/-- R66 law 6 at work: what `be.min` publishes is the input less its leading zero bytes. -/
theorem beMinResult_holdsInput {s : State} {b : List Byte} (hlen : b.length ≤ 256) (h : s.HoldsInput b) :
    beMinResult false s.inLen.toNat s.inBuf = .ok (strip b) := by
  have hin : s.inLen.toNat = b.length := h.1
  have hcap : ¬ s.inLen.toNat > Config.inCap := Nat.not_lt.mpr (hin.trans_le hlen)
  simp [beMinResult, hcap, h.withInput, toBE_fromBE]

/-- Settles O30: `be.min` issues command 100, and EXEC answers it by `beMinResult`. -/
theorem beMinFollowsR67 : Obligations.BeMinFollowsR67 := by
  unfold Obligations.BeMinFollowsR67
  refine ⟨fun page => ⟨rfl, rfl⟩, fun s hb => ⟨?nullin, fun h => ?tooLarge, fun b hlen h => ?ok⟩⟩
  case nullin => exact performs_of_err hb (exec_opRow 0b100#3 true s) (opResult_beMin ..)
  case tooLarge =>
    exact performs_of_err hb (exec_opRow 0b100#3 false s) ((opResult_beMin ..).trans (beMinResult_tooLarge h _))
  case ok =>
    exact performs_of_ok hb (exec_opRow 0b100#3 false s)
      ((opResult_beMin ..).trans (beMinResult_holdsInput hlen h))

end Sys2Proof.Machine
end

section
/-! PROOFS. The family 42_encode.md: the groups of ENC_GROUPS (R69), and the commands `enc.raw` (R71) and
`enc.sym` (R72). One fact carries all three: the loop of R69 writes the base-32 digits of its value. -/

namespace Sys2Proof.Machine

/-! ### The groups (R68, R69) -/

/-- `G(n)` with the ceiling written out (R68). -/
theorem groupCount_eq (n : Nat) : groupCount n = (8 * n + 4) / 5 := rfl

/-- The last digit, and before it the digits of the rest of the value. -/
theorem digitsOf_succ (b n v : Nat) : digitsOf b (n + 1) v = digitsOf b n (v / b) ++ [v % b] := by
  have hlead : ∀ j ∈ List.range n, v / b ^ (n + 1 - 1 - j) % b = v / b / b ^ (n - 1 - j) % b := by
    intro j hj
    have hexp : n + 1 - 1 - j = n - 1 - j + 1 := by
      have := List.mem_range.mp hj
      omega
    rw [hexp, Nat.pow_succ', Nat.div_div_eq_div_mul]
  rw [digitsOf, List.range_succ, List.map_append, List.map_congr_left hlead]
  simp [digitsOf]

theorem getElem?_digitsOf {b n v j : Nat} (h : j < n) :
    (digitsOf b n v)[j]? = some (v / b ^ (n - 1 - j) % b) := by
  simp [digitsOf, h]

/-- Each round of the loop writes the last digit of what is left of the value, and the digits before it are
those of the value shifted. -/
theorem fillGroups_toNat (j v : Nat) :
    (fillGroups j v []).map (fun g => g.toNat) = digitsOf 32 j v := by
  induction j generalizing v with
  | zero => rfl
  | succ j ih =>
    rw [fillGroups, fillGroups_append, List.map_append, ih, digitsOf_succ, Nat.shiftRight_eq_div_pow]
    rfl

/-- R73 law 3: the groups are the base-32 digits of the input's number. -/
theorem encGroups_toNat (b : List Byte) :
    (encGroups b).map (fun g => g.toNat) = digitsOf 32 (groupCount b.length) (fromBE b) :=
  fillGroups_toNat ..

/-- Settles O38: group `j` is digit `j` by `encGroups_toNat`, read off by a shift and a mask. -/
theorem encGroupsOfR69 : Obligations.EncGroupsOfR69 := by
  unfold Obligations.EncGroupsOfR69
  refine fun b => ⟨(encGroups_length b).trans (groupCount_eq _), fun j hj => ?_⟩
  rw [encGroups_length] at hj ⊢
  calc ((encGroups b)[j]?).map (fun g => g.toNat)
      = some (fromBE b / 32 ^ (groupCount b.length - 1 - j) % 32) := by
        rw [← List.getElem?_map, encGroups_toNat, getElem?_digitsOf hj]
    _ = some ((fromBE b >>> (5 * (groupCount b.length - 1 - j))) &&& 31) := by
        rw [Nat.shiftRight_eq_div_pow, Nat.pow_mul, Nat.and_two_pow_sub_one_eq_mod _ 5]

/-- The number of R64 is the pivot, written without shifts. -/
theorem fromBE_eq_pivotOfBytes (b : List Byte) : fromBE b = pivotOfBytes b := by
  induction b using List.reverseRecOn with
  | nil => rfl
  | append_singleton b x ih =>
    rw [fromBE_append_singleton_eq_add, ih]
    simp [pivotOfBytes, valueOf]

/-! ### The commands `enc.raw` and `enc.sym` (R71, R72) -/

theorem opResult_encRaw (nullin : Bool) (ws : List Byte) (len : Nat) (inp : Memory) :
    opResult 0b000#3 nullin false ws len inp = encodeResult (fun g => g.setWidth 8) nullin len inp := rfl

theorem opResult_encSym (nullin : Bool) (ws : List Byte) (len : Nat) (inp : Memory) :
    opResult 0b010#3 nullin false ws len inp = encodeResult sym nullin len inp := rfl

section Encode

variable {form : Group → Byte}

theorem encodeResult_nullin (len : Nat) (inp : Memory) :
    encodeResult form true len inp = .err .invalidInput 0#8 0#8 := rfl

theorem encodeResult_empty {len : Nat} (h : len = 0) (inp : Memory) :
    encodeResult form false len inp = .err .invalidInput 0#8 0#8 := by
  rw [h]
  rfl

/-- 41 bytes make 66 groups, more than MAX_GROUPS (R68). -/
theorem encodeResult_tooLarge {len : Nat} (h : 41 ≤ len) (inp : Memory) :
    encodeResult form false len inp = .err .tooLarge 0#8 0#8 := by
  have hne : len ≠ 0 := by omega
  have hmax : groupCount len > Config.maxGroups := by
    rw [groupCount_eq, Config.maxGroups]
    omega
  simp [encodeResult, hne, hmax]

theorem encodeResult_holdsInput {s : State} {b : List Byte} (hpos : 1 ≤ b.length) (hlen : b.length ≤ 40)
    (h : s.HoldsInput b) :
    encodeResult form false s.inLen.toNat s.inBuf = .ok ((encGroups b).map form) := by
  have hin : s.inLen.toNat = b.length := h.1
  have hne : s.inLen.toNat ≠ 0 := by omega
  have hmax : ¬ groupCount s.inLen.toNat > Config.maxGroups := by
    rw [groupCount_eq, Config.maxGroups]
    omega
  simp only [encodeResult, Bool.false_eq_true, if_false, if_neg hne, if_neg hmax, h.withInput]

/-- The groups in their published form, `digit` giving each from its number. -/
theorem encGroups_map_form {digit : Nat → Byte} (hform : ∀ g, form g = digit g.toNat) (b : List Byte) :
    (encGroups b).map form = (digitsOf 32 ((8 * b.length + 4) / 5) (pivotOfBytes b)).map digit := by
  rw [← groupCount_eq, ← fromBE_eq_pivotOfBytes, ← encGroups_toNat, List.map_map]
  exact List.map_congr_left fun g _ => hform g

/-- How an encode started in an idle state ends. R71 and R72 share it: they differ in the operation's number
and in the form of the groups. -/
theorem performs_encode {op : BitVec 3} {digit : Nat → Byte} {s : State}
    (hop : ∀ nullin ws len inp, opResult op nullin false ws len inp = encodeResult form nullin len inp)
    (hform : ∀ g, form g = digit g.toNat) (hb : s.busy = false) :
    (∃ u, Performs (opRow op true) s u ∧ u.Failed 1#3 0#8 0#8) ∧
    (s.inLen = 0#9 → ∃ u, Performs (opRow op false) s u ∧ u.Failed 1#3 0#8 0#8) ∧
    (41 ≤ s.inLen.toNat → ∃ u, Performs (opRow op false) s u ∧ u.Failed 2#3 0#8 0#8) ∧
    (∀ b, 1 ≤ b.length → b.length ≤ 40 → s.HoldsInput b → ∃ u, Performs (opRow op false) s u ∧
      u.Succeeded ((digitsOf 32 ((8 * b.length + 4) / 5) (pivotOfBytes b)).map digit)) := by
  refine ⟨?nullin, fun h => ?empty, fun h => ?tooLarge, fun b hpos hlen h => ?ok⟩
  case nullin => exact performs_of_err hb (exec_opRow op true s) ((hop ..).trans (encodeResult_nullin ..))
  case empty =>
    have hlen : s.inLen.toNat = 0 := congrArg BitVec.toNat h
    exact performs_of_err hb (exec_opRow op false s) ((hop ..).trans (encodeResult_empty hlen _))
  case tooLarge =>
    exact performs_of_err hb (exec_opRow op false s) ((hop ..).trans (encodeResult_tooLarge h _))
  case ok =>
    rw [← encGroups_map_form hform]
    exact performs_of_ok hb (exec_opRow op false s) ((hop ..).trans (encodeResult_holdsInput hpos hlen h))

end Encode

/-- Settles O26: `enc.raw` is the encode of number 000, each group zero-extended to a byte. -/
theorem encRawFollowsR71 : Obligations.EncRawFollowsR71 := by
  unfold Obligations.EncRawFollowsR71
  exact ⟨fun page => ⟨rfl, rfl⟩,
    fun s hb => performs_encode opResult_encRaw (fun g => (BitVec.ofNat_toNat 8 g).symm) hb⟩

/-- Settles O27: `enc.sym` is the encode of number 010, each group as its alphabet code. -/
theorem encSymFollowsR72 : Obligations.EncSymFollowsR72 := by
  unfold Obligations.EncSymFollowsR72
  exact ⟨fun page => ⟨rfl, rfl⟩, fun s hb => performs_encode opResult_encSym (fun _ => rfl) hb⟩

end Sys2Proof.Machine
end

section
/-! PROOFS. The family 43_decode.md: the bytes of DEC_BYTES (R75), and the commands `dec.raw` (R78) and
`dec.sym` (R79). One fact carries the successes: the minimal bytes of a value, padded to `n`, are its `n`
base-256 digits. The two commands differ in what an entry stands for and in their checks. -/

namespace Sys2Proof.Machine

/-! ### The bytes (R75) -/

/-- R66 law 9 and R65: padding puts the missing leading digits, which are 0, before the minimal bytes. -/
theorem padTo_toBE {n v : Nat} (h : v < 256 ^ n) : padTo n (toBE v) = asBytes (digitsOf 256 n v) := by
  induction n generalizing v with
  | zero =>
    obtain rfl : v = 0 := by simpa using h
    rfl
  | succ n ih =>
    have hdiv : v / 256 < 256 ^ n := Nat.div_lt_of_lt_mul (by rwa [Nat.pow_succ'] at h)
    have hlow : asBytes [v % 256] = [BitVec.ofNat 8 v] := by simp [asBytes, ← BitVec.toNat_inj]
    have hdigits : asBytes (digitsOf 256 (n + 1) v) = padTo n (toBE (v / 256)) ++ [BitVec.ofNat 8 v] := by
      rw [digitsOf_succ, ih hdiv, ← hlow]
      exact List.map_append
    rw [hdigits]
    by_cases hv : v = 0
    · subst hv
      simp [padTo, zeros, List.replicate_succ']
    · rw [toBE_of_ne_zero hv, Nat.shiftRight_eq_div_pow]
      simp [padTo]

theorem padTo_of_le_length {n : Nat} {m : List Byte} (h : n ≤ m.length) : padTo n m = m := by
  simp [padTo, zeros, Nat.sub_eq_zero_of_le h]

/-- Steps 5 and 6 of R75 are one padding, which adds nothing when the bytes reach the exact fit. -/
theorem decBytes_eq_padTo (g : List Group) : decBytes g = padTo (fitLength g.length) (toBE (fromGroups g)) := by
  simp only [decBytes]
  split
  · next hfit => exact (padTo_of_le_length hfit).symm
  · rfl

/-- R80 law 1: the decoded bytes are the base-256 digits of the pivot, the exact fit of them or one more. -/
theorem decBytes_eq_digitsOf (g : List Group) :
    decBytes g = asBytes (digitsOf 256 (decodedLength g.length (fromGroups g)) (fromGroups g)) := by
  rw [decBytes_eq_padTo, decodedLength, ← fitLength]
  split
  · next hfits => exact padTo_toBE hfits
  · next hover =>
    have hlong : fitLength g.length + 1 ≤ (toBE (fromGroups g)).length := by
      rwa [Nat.succ_le_iff, ← Nat.not_le, toBE_length_le_iff, Nat.pow_mul]
    have hbits : 5 * g.length ≤ 8 * (fitLength g.length + 1) := by
      unfold fitLength
      omega
    have hfits : fromGroups g < 256 ^ (fitLength g.length + 1) := by
      have := Nat.lt_of_lt_of_le (fromGroups_lt g) (Nat.pow_le_pow_right (by decide) hbits)
      rwa [Nat.pow_mul] at this
    rw [← padTo_toBE hfits, padTo_of_le_length hlong, padTo_of_le_length (Nat.le_of_succ_le hlong)]

/-- R80 law 3: the pivot is the number whose base-32 digits are the groups. -/
theorem fromGroups_eq_valueOf (g : List Group) : fromGroups g = valueOf 32 (g.map fun x => x.toNat) := by
  induction g using List.reverseRecOn with
  | nil => rfl
  | append_singleton g x ih =>
    have hstep : fromGroups (g ++ [x]) = fromGroups g <<< 5 ||| x.toNat := by simp [fromGroups]
    rw [hstep, ← Nat.shiftLeft_add_eq_or_of_lt x.isLt, Nat.shiftLeft_eq, ih]
    simp [valueOf]

/-- The decoded bytes of groups given by their numbers. -/
theorem decBytes_of_toNat {g : List Group} {ds : List Nat} (h : g.map (fun x => x.toNat) = ds) :
    decBytes g = asBytes (digitsOf 256 (decodedLength ds.length (valueOf 32 ds)) (valueOf 32 ds)) := by
  rw [decBytes_eq_digitsOf, fromGroups_eq_valueOf, h, ← h, List.length_map]

/-! ### The search for an offending entry (60_exceptions.md R88) -/

section Search

variable {bad : Byte → Bool} {entries : List Byte}

theorem orInvalidSymbol_of_first {i : Nat} {e : Byte} (hi : entries[i]? = some e) (he : bad e = true)
    (hbefore : ∀ j x, j < i → entries[j]? = some x → bad x = false) (k : Result) :
    orInvalidSymbol bad entries k = .err .invalidSymbol (BitVec.ofNat 8 i) e := by
  have hfirst : firstOffending bad 0 entries = some (i, e) :=
    (firstOffending_eq_some bad 0 entries i e).mpr ⟨i, (Nat.zero_add i).symm, hi, he, hbefore⟩
  rw [orInvalidSymbol, hfirst]

theorem orInvalidSymbol_of_none (h : ∀ e ∈ entries, bad e = false) (k : Result) :
    orInvalidSymbol bad entries k = k := by
  rw [orInvalidSymbol, (firstOffending_eq_none bad 0 entries).mpr h]

end Search

/-! ### The command `dec.raw` (R78) -/

section Raw

variable {s : State} {nullin : Bool}

/-- `dec.raw` issues command 001, and EXEC answers it by `decRawResult`. -/
theorem decRaw_fails {kind : ErrKind} {index value : Byte} (hb : s.busy = false)
    (hr : decRawResult nullin s.inLen.toNat s.inBuf = .err kind index value) :
    ∃ u, Performs (.decRaw nullin) s u ∧ u.Failed kind.code index value :=
  performs_of_err hb (exec_opRow 0b001#3 nullin s) hr

theorem decRaw_succeeds {out : List Byte} (hb : s.busy = false)
    (hr : decRawResult nullin s.inLen.toNat s.inBuf = .ok out) :
    ∃ u, Performs (.decRaw nullin) s u ∧ u.Succeeded out :=
  performs_of_ok hb (exec_opRow 0b001#3 nullin s) hr

theorem decRawResult_nullin (len : Nat) (inp : Memory) :
    decRawResult true len inp = .err .invalidInput 0#8 0#8 := rfl

theorem decRawResult_empty {len : Nat} (h : len = 0) (inp : Memory) :
    decRawResult false len inp = .err .invalidInput 0#8 0#8 := by
  rw [h]
  rfl

theorem decRawResult_tooLarge {len : Nat} (h : 65 ≤ len) (inp : Memory) :
    decRawResult false len inp = .err .tooLarge 0#8 0#8 := by
  have hne : len ≠ 0 := by omega
  have hmax : len > Config.maxSymbols := h
  simp [decRawResult, hne, hmax]

/-- Past the length checks, the entries are searched for one that is no group value. -/
theorem decRawResult_holdsInput {g : List Byte} (hpos : 1 ≤ g.length) (hlen : g.length ≤ 64)
    (h : s.HoldsInput g) :
    decRawResult false s.inLen.toNat s.inBuf =
      orInvalidSymbol notGroup g (.ok (decBytes (g.map fun e => e.setWidth 5))) := by
  have hin : s.inLen.toNat = g.length := h.1
  have hne : s.inLen.toNat ≠ 0 := by omega
  have hmax : ¬ s.inLen.toNat > Config.maxSymbols := Nat.not_lt.mpr (hin.trans_le hlen)
  simp only [decRawResult, Bool.false_eq_true, if_false, if_neg hne, if_neg hmax, h.withInput]

theorem notGroup_eq_true_iff (e : Byte) : notGroup e = true ↔ 32 ≤ e.toNat := decide_eq_true_iff

theorem notGroup_eq_false_iff (e : Byte) : notGroup e = false ↔ e.toNat < 32 := by
  rw [notGroup, decide_eq_false_iff_not, Nat.not_le]

/-- The pivot of raw entries is that of their values: below 32, none loses a bit. -/
theorem decBytes_entries {g : List Byte} (h : ∀ e ∈ g, e.toNat < 32) :
    decBytes (g.map fun e => e.setWidth 5) =
      asBytes (digitsOf 256 (decodedLength g.length (pivotOfGroups g)) (pivotOfGroups g)) := by
  have hvalues : (g.map fun e => e.setWidth 5).map (fun x => x.toNat) = g.map fun e => e.toNat := by
    rw [List.map_map]
    exact List.map_congr_left fun e he => Nat.mod_eq_of_lt (h e he)
  rw [decBytes_of_toNat hvalues, List.length_map, pivotOfGroups]

end Raw

/-- Settles O28: the checks of `decRawResult` in their order, `firstOffending` giving the lowest entry of 32 or
more, and the bytes by `decBytes_entries`. -/
theorem decRawFollowsR78 : Obligations.DecRawFollowsR78 := by
  unfold Obligations.DecRawFollowsR78
  refine ⟨fun page => ⟨rfl, rfl⟩, fun s hb => ⟨?nullin, fun h => ?empty, fun h => ?tooLarge,
    fun g hpos hlen h => ⟨fun i e hi he hbefore => ?offending, fun hgroups => ?ok⟩⟩⟩
  case nullin => exact decRaw_fails hb (decRawResult_nullin ..)
  case empty => exact decRaw_fails hb (decRawResult_empty (congrArg BitVec.toNat h) _)
  case tooLarge => exact decRaw_fails hb (decRawResult_tooLarge h _)
  case offending =>
    exact decRaw_fails hb ((decRawResult_holdsInput hpos hlen h).trans
      (orInvalidSymbol_of_first hi ((notGroup_eq_true_iff e).mpr he)
        (fun j x hj hx => (notGroup_eq_false_iff x).mpr (hbefore j x hj hx)) _))
  case ok =>
    rw [← decBytes_entries hgroups]
    exact decRaw_succeeds hb ((decRawResult_holdsInput hpos hlen h).trans
      (orInvalidSymbol_of_none (fun e he => (notGroup_eq_false_iff e).mpr (hgroups e he)) _))

/-! ### The value of a symbol (44_alphabet.md R83) -/

/-- The search answers the position of the first equal code. -/
theorem findCode_eq (c : Byte) (start : Nat) (codes : List Byte) :
    findCode c start codes =
      if c ∈ codes then some (BitVec.ofNat 5 (start + codes.idxOf c)) else none := by
  induction codes generalizing start with
  | nil => rfl
  | cons k rest ih =>
    rw [findCode]
    split
    · next hk => simp [hk]
    · next hk =>
      rw [ih, List.idxOf_cons_ne rest hk, Nat.add_right_comm, Nat.add_assoc]
      simp [Ne.symm hk]

theorem index_of_mem {c : Byte} (h : c ∈ alphabet) : index c = some (BitVec.ofNat 5 (alphabet.idxOf c)) := by
  rw [index, findCode_eq, if_pos h, Nat.zero_add]

theorem index_eq_none_iff (c : Byte) : index c = none ↔ c ∉ alphabet := by
  simp [index, findCode_eq]

theorem notSymbol_eq_true_iff (c : Byte) : notSymbol c = true ↔ c ∉ alphabet := by
  rw [notSymbol, Option.isNone_iff_eq_none, index_eq_none_iff]

theorem notSymbol_eq_false_iff (c : Byte) : notSymbol c = false ↔ c ∈ alphabet := by
  rw [← Bool.not_eq_true, notSymbol_eq_true_iff, not_not]

/-- The pivot of a symbol string is that of the symbols' places in the alphabet. -/
theorem decBytes_symbols {cs : List Byte} (h : ∀ e ∈ cs, e ∈ alphabet) :
    decBytes (cs.filterMap index) =
      asBytes (digitsOf 256 (decodedLength cs.length (valueOf 32 (cs.map fun x => alphabet.idxOf x)))
        (valueOf 32 (cs.map fun x => alphabet.idxOf x))) := by
  have hgroups : cs.filterMap index = cs.map fun c => BitVec.ofNat 5 (alphabet.idxOf c) := by
    rw [← List.filterMap_eq_map]
    exact List.filterMap_congr fun c hc => index_of_mem (h c hc)
  have hvalues : (cs.filterMap index).map (fun x => x.toNat) = cs.map fun x => alphabet.idxOf x := by
    rw [hgroups, List.map_map]
    exact List.map_congr_left fun c hc => Nat.mod_eq_of_lt (List.idxOf_lt_length_of_mem (h c hc))
  rw [decBytes_of_toNat hvalues, List.length_map]

/-! ### The command `dec.sym` (R79) -/

section Sym

variable {s : State} {nullin : Bool}

/-- `dec.sym` issues command 011, and EXEC answers it by `decSymResult`. -/
theorem decSym_fails {kind : ErrKind} {index value : Byte} (hb : s.busy = false)
    (hr : decSymResult s.params.wsSet nullin s.inLen.toNat s.inBuf = .err kind index value) :
    ∃ u, Performs (.decSym nullin) s u ∧ u.Failed kind.code index value :=
  performs_of_err hb (exec_opRow 0b011#3 nullin s) hr

theorem decSym_succeeds {out : List Byte} (hb : s.busy = false)
    (hr : decSymResult s.params.wsSet nullin s.inLen.toNat s.inBuf = .ok out) :
    ∃ u, Performs (.decSym nullin) s u ∧ u.Succeeded out :=
  performs_of_ok hb (exec_opRow 0b011#3 nullin s) hr

variable {ws : List Byte}

theorem decSymResult_nullin (len : Nat) (inp : Memory) :
    decSymResult ws true len inp = .err .invalidInput 0#8 0#8 := rfl

theorem decSymResult_empty {len : Nat} (h : len = 0) (inp : Memory) :
    decSymResult ws false len inp = .err .invalidInput 0#8 0#8 := by
  rw [h]
  rfl

theorem decSymResult_tooLarge {len : Nat} (h : 257 ≤ len) (inp : Memory) :
    decSymResult ws false len inp = .err .tooLarge 0#8 0#8 := by
  have hne : len ≠ 0 := by omega
  have hcap : len > Config.inCap := h
  simp [decSymResult, hne, hcap]

/-- Past the checks on IN_CAP, the whitespace check comes before the one on MAX_SYMBOLS. -/
theorem decSymResult_holdsInput {cs : List Byte} (hpos : 1 ≤ cs.length) (hlen : cs.length ≤ 256)
    (h : s.HoldsInput cs) :
    decSymResult ws false s.inLen.toNat s.inBuf =
      if allWs ws cs then .err .invalidInput 0#8 0#8
      else if cs.length > Config.maxSymbols then .err .tooLarge 0#8 0#8
      else orInvalidSymbol notSymbol cs (.ok (decBytes (cs.filterMap index))) := by
  have hin : s.inLen.toNat = cs.length := h.1
  have hne : s.inLen.toNat ≠ 0 := by omega
  have hcap : ¬ s.inLen.toNat > Config.inCap := Nat.not_lt.mpr (hin.trans_le hlen)
  simp only [decSymResult, Bool.false_eq_true, if_false, if_neg hne, if_neg hcap, h.withInput]
  rw [hin]

theorem allWs_eq_true_iff (cs : List Byte) : allWs ws cs = true ↔ ∀ x ∈ cs, x ∈ ws := by
  simp [allWs]

section Entries

variable {cs : List Byte} (hpos : 1 ≤ cs.length) (hlen : cs.length ≤ 256) (h : s.HoldsInput cs)
include hpos hlen h

theorem decSymResult_blank (hws : ∀ x ∈ cs, x ∈ ws) :
    decSymResult ws false s.inLen.toNat s.inBuf = .err .invalidInput 0#8 0#8 := by
  rw [decSymResult_holdsInput hpos hlen h, if_pos ((allWs_eq_true_iff cs).mpr hws)]

theorem decSymResult_notBlank (hws : ∃ x ∈ cs, x ∉ ws) :
    decSymResult ws false s.inLen.toNat s.inBuf =
      if cs.length > Config.maxSymbols then .err .tooLarge 0#8 0#8
      else orInvalidSymbol notSymbol cs (.ok (decBytes (cs.filterMap index))) := by
  obtain ⟨x, hx, hxws⟩ := hws
  have hnot : ¬ allWs ws cs = true := fun hall => hxws ((allWs_eq_true_iff cs).mp hall x hx)
  rw [decSymResult_holdsInput hpos hlen h, if_neg hnot]

end Entries

theorem decSymResult_tooManySymbols {cs : List Byte} (hlong : 65 ≤ cs.length) (hlen : cs.length ≤ 256)
    (h : s.HoldsInput cs) (hws : ∃ x ∈ cs, x ∉ ws) :
    decSymResult ws false s.inLen.toNat s.inBuf = .err .tooLarge 0#8 0#8 := by
  rw [decSymResult_notBlank (by omega) hlen h hws]
  exact if_pos hlong

theorem decSymResult_symbols {cs : List Byte} (hpos : 1 ≤ cs.length) (hshort : cs.length ≤ 64)
    (h : s.HoldsInput cs) (hws : ∃ x ∈ cs, x ∉ ws) :
    decSymResult ws false s.inLen.toNat s.inBuf =
      orInvalidSymbol notSymbol cs (.ok (decBytes (cs.filterMap index))) := by
  rw [decSymResult_notBlank hpos (by omega) h hws]
  exact if_neg (Nat.not_lt.mpr hshort)

end Sym

/-- Settles O29: the checks of `decSymResult` in their order, `firstOffending` giving the lowest code that is
not in the alphabet, and the bytes by `decBytes_symbols`. -/
theorem decSymFollowsR79 : Obligations.DecSymFollowsR79 := by
  unfold Obligations.DecSymFollowsR79
  refine ⟨fun page => ⟨rfl, rfl⟩, fun s hb => ⟨?nullin, fun h => ?empty, fun h => ?tooLarge,
    fun cs hpos hlen h => ⟨fun hws => ?blank, fun hws => ⟨fun hlong => ?tooMany, fun hshort =>
      ⟨fun i e hi he hbefore => ?offending, fun hsymbols => ?ok⟩⟩⟩⟩⟩
  case nullin => exact decSym_fails hb (decSymResult_nullin ..)
  case empty => exact decSym_fails hb (decSymResult_empty (congrArg BitVec.toNat h) _)
  case tooLarge => exact decSym_fails hb (decSymResult_tooLarge h _)
  case blank => exact decSym_fails hb (decSymResult_blank hpos hlen h hws)
  case tooMany => exact decSym_fails hb (decSymResult_tooManySymbols hlong hlen h hws)
  case offending =>
    exact decSym_fails hb ((decSymResult_symbols hpos hshort h hws).trans
      (orInvalidSymbol_of_first hi ((notSymbol_eq_true_iff e).mpr he)
        (fun j x hj hx => (notSymbol_eq_false_iff x).mpr (hbefore j x hj hx)) _))
  case ok =>
    rw [← decBytes_symbols hsymbols]
    exact decSym_succeeds hb ((decSymResult_symbols hpos hshort h hws).trans
      (orInvalidSymbol_of_none (fun e he => (notSymbol_eq_false_iff e).mpr (hsymbols e he)) _))

end Sys2Proof.Machine
end

section
/-! PROOFS. The family 44_alphabet.md: the mapping between groups and alphabet codes (R81..R84). One lemma
places the codes on the code table, one says that INDEX inverts SYM, and the rejection by `dec.sym` is R79's
search on a single entry. -/

namespace Sys2Proof.Machine

/-! ### The table (R81) -/

theorem alphabet_nodup : alphabet.Nodup := by decide

/-- Every code of the alphabet is a digit from `2` or a lower-case letter. -/
theorem toNat_of_mem_alphabet :
    ∀ c ∈ alphabet, (0x32 ≤ c.toNat ∧ c.toNat ≤ 0x39) ∨ (0x61 ≤ c.toNat ∧ c.toNat ≤ 0x7A) := by
  decide

/-- What `toNat_of_mem_alphabet` does not place on the code table is rejected. -/
theorem index_eq_none_of_toNat {c : Byte} (hdigit : c.toNat < 0x32 ∨ 0x39 < c.toNat)
    (hletter : c.toNat < 0x61 ∨ 0x7A < c.toNat) : index c = none := by
  refine (index_eq_none_iff c).mpr fun hc => ?_
  have := toNat_of_mem_alphabet c hc
  omega

/-! ### SYM and INDEX (R82, R83) -/

theorem toNat_lt_alphabet_length (v : Group) : v.toNat < alphabet.length := v.isLt

theorem sym_eq_getElem (v : Group) : sym v = alphabet[v.toNat]'(toNat_lt_alphabet_length v) :=
  List.getD_eq_getElem _ _ _

theorem getElem?_alphabet (v : Group) : alphabet[v.toNat]? = some (sym v) := by
  rw [sym_eq_getElem, List.getElem?_eq_getElem]

theorem sym_mem_alphabet (v : Group) : sym v ∈ alphabet :=
  List.mem_of_getElem? (getElem?_alphabet v)

/-- No code stands twice in the table, so the code of row `v` is found at row `v`. -/
theorem index_sym (v : Group) : index (sym v) = some v := by
  have hrow : alphabet.idxOf (sym v) = v.toNat := by
    rw [sym_eq_getElem, alphabet_nodup.idxOf_getElem]
  rw [index_of_mem (sym_mem_alphabet v), hrow, BitVec.ofNat_toNat, BitVec.setWidth_eq]

/-- The row of a code of the alphabet holds that code. -/
theorem sym_idxOf {c : Byte} (h : c ∈ alphabet) : sym (BitVec.ofNat 5 (alphabet.idxOf c)) = c := by
  have hrow := List.idxOf_lt_length_of_mem h
  have hval : (BitVec.ofNat 5 (alphabet.idxOf c)).toNat = alphabet.idxOf c := Nat.mod_eq_of_lt hrow
  simp only [sym_eq_getElem, hval, List.getElem_idxOf]

theorem index_eq_some_iff (c : Byte) (v : Group) : index c = some v ↔ sym v = c := by
  refine ⟨fun h => ?_, fun h => h ▸ index_sym v⟩
  have hc : c ∈ alphabet := by
    by_contra hc
    simp [(index_eq_none_iff c).mpr hc] at h
  rw [index_of_mem hc, Option.some_inj] at h
  exact h ▸ sym_idxOf hc

theorem filterMap_index_map_sym (g : List Group) : (g.map sym).filterMap index = g := by
  have hback : index ∘ sym = some := funext index_sym
  rw [List.filterMap_map, hback, List.filterMap_some]

/-! ### A code outside the alphabet is rejected (R79, R84) -/

theorem decSym_rejects {s : State} {c : Byte} (hb : s.busy = false) (h : s.HoldsInput [c])
    (hws : c ∉ s.params.wsSet) (hc : c ∉ alphabet) :
    ∃ u, Performs (.decSym false) s u ∧ u.Failed 3#3 0#8 c := by
  have hfirst : orInvalidSymbol notSymbol [c] (.ok (decBytes ([c].filterMap index))) =
      .err .invalidSymbol 0#8 c :=
    orInvalidSymbol_of_first (i := 0) rfl ((notSymbol_eq_true_iff c).mpr hc)
      (fun _ _ hj _ => absurd hj (Nat.not_lt_zero _)) _
  exact decSym_fails hb
    ((decSymResult_symbols (cs := [c]) (by simp) (by simp) h ⟨c, List.mem_singleton_self c, hws⟩).trans hfirst)

/-- Settles O46: `index_eq_some_iff` for the mapping, the place of the codes on the code table for those that
are rejected, and `decSym_rejects` for the command. -/
theorem alphabetMapping : Obligations.AlphabetMapping := by
  unfold Obligations.AlphabetMapping
  refine ⟨rfl, getElem?_alphabet, index_eq_some_iff, index_eq_none_iff, fun c hc => ?upper,
    fun c hc => ?above, by decide, by decide, filterMap_index_map_sym,
    fun s c hb h hws hc => decSym_rejects hb h hws ((index_eq_none_iff c).mp hc)⟩
  case upper => exact index_eq_none_of_toNat (by omega) (by omega)
  case above => exact index_eq_none_of_toNat (by omega) (by omega)

end Sys2Proof.Machine
end

section
/-! PROOFS. The family 60_exceptions.md: acknowledging a completion (R91). The answers of a STATUS write and
of a START row are those of the earlier families. -/

namespace Sys2Proof.Machine

variable {s t : State} {i : Instr}

/-- A STATUS write with bit 1 set acknowledges the completion and keeps its error on record. -/
theorem exec_wr_status_acknowledges {v : Word} (he : exec (.wr 0x008#12 32 v) s = .next t)
    (hv : v.getLsbD 1 = true) :
    t.done = false ∧ t.irq = false ∧ t.err = s.err ∧ t.errCode = s.errCode ∧
      t.errIndex = s.errIndex ∧ t.errValue = s.errValue := by
  have hirq : t.irq = false := by rw [exec_wr_status_irq he, hv, Bool.not_true, Bool.and_false]
  obtain rfl := Host.Outcome.next.inj ((exec_wr_status v s).symm.trans he)
  exact ⟨by simp [hv], hirq, rfl, rfl, rfl, rfl⟩

/-- An accepted START clears what the last completion left; whether DONE or ERR is set plays no part. -/
theorem exec_startRow_acknowledges (h : IsStartRow i) (hb : s.busy = false) (he : exec i s = .next t) :
    t.busy = true ∧ t.done = false ∧ t.err = false ∧ t.errCode = 0#3 ∧
      t.wbusy = false ∧ t.errIndex = 0#8 ∧ t.errValue = 0#8 := by
  obtain ⟨op, nullin, rsv, hs⟩ := exec_startRow_idle h hb
  obtain rfl := Host.Outcome.next.inj (hs.symm.trans he)
  exact ⟨rfl, rfl, rfl, rfl, rfl, rfl, rfl⟩

/-- Settles O33: the STATUS write, the START an idle state accepts (`exec_startRow_idle`), and the START a
running operation ignores (`ignored_startRow`). -/
theorem acknowledgingFollowsR91 : Obligations.AcknowledgingFollowsR91 := by
  unfold Obligations.AcknowledgingFollowsR91
  exact ⟨fun _ _ _ => exec_wr_status_acknowledges, fun i s t hi he =>
    ⟨fun hb => exec_startRow_acknowledges hi hb he,
      fun hb => Host.Outcome.next.inj (he.symm.trans (ignored_startRow hb hi))⟩⟩

end Sys2Proof.Machine
end

section
/-! PROOFS. The family 70_reset_and_hazards.md: the fault UnwrittenInput (R103). Each operation's function is a
list of checks before the read of its input, so it answers `unwritten` exactly when every check that needs no
entry has passed and the input cannot be read. -/

namespace Sys2Proof.Machine

section Unwritten

variable {nullin : Bool} {len : Nat} {inp : Memory}

/-! ### The read of the input -/

/-- The input cannot be read exactly when some entry below LEN has not been written (R59, R103). -/
theorem readInput_eq_none_iff (inp : Memory) (len : Nat) :
    readInput inp len = none ↔ ∃ i, i < len ∧ inp.read i = none := by
  simpa only [readInput, Nat.zero_add] using readEntries_eq_none inp 0 len

/-- An input that cannot be read is not empty, so a check for the empty one has passed already. -/
theorem ne_zero_and_readInput_eq_none_iff {p : Prop} :
    (¬ len = 0 ∧ p ∧ readInput inp len = none) ↔ p ∧ readInput inp len = none := by
  refine and_iff_right_of_imp fun ⟨_, hr⟩ => ?_
  rintro rfl
  cases hr

/-- An operation whose last part always ends is `unwritten` only by its read. -/
theorem withInput_eq_unwritten_iff {f : List Byte → Result} (hf : ∀ b, f b ≠ .unwritten) :
    withInput inp len f = .unwritten ↔ readInput inp len = none := by
  unfold withInput
  cases readInput inp len with
  | some b => simpa using hf b
  | none => simp

/-- A check that needs no entry: past it the operation goes on, and its error is no fault. -/
theorem check_eq_unwritten_iff {c : Prop} [Decidable c] {kind : ErrKind} {index value : Byte} {r : Result} :
    (if c then .err kind index value else r) = .unwritten ↔ ¬ c ∧ r = .unwritten := by
  by_cases hc : c <;> simp [hc]

theorem orInvalidSymbol_ne_unwritten (bad : Byte → Bool) (entries : List Byte) {k : Result}
    (hk : k ≠ .unwritten) : orInvalidSymbol bad entries k ≠ .unwritten := by
  unfold orInvalidSymbol
  split
  · exact Result.noConfusion
  · exact hk

/-! ### The operations -/

theorem encodeResult_eq_unwritten_iff {form : Group → Byte} :
    encodeResult form nullin len inp = .unwritten ↔
      nullin = false ∧ len ≤ 40 ∧ readInput inp len = none := by
  have hmax : ¬ groupCount len > Config.maxGroups ↔ len ≤ 40 := by
    rw [groupCount_eq, Config.maxGroups]
    omega
  rw [encodeResult, check_eq_unwritten_iff, check_eq_unwritten_iff, check_eq_unwritten_iff,
    withInput_eq_unwritten_iff (fun _ => Result.noConfusion), hmax, ne_zero_and_readInput_eq_none_iff,
    Bool.not_eq_true]

theorem decRawResult_eq_unwritten_iff :
    decRawResult nullin len inp = .unwritten ↔
      nullin = false ∧ len ≤ 64 ∧ readInput inp len = none := by
  rw [decRawResult, check_eq_unwritten_iff, check_eq_unwritten_iff, check_eq_unwritten_iff,
    withInput_eq_unwritten_iff (fun g => orInvalidSymbol_ne_unwritten _ g Result.noConfusion),
    ne_zero_and_readInput_eq_none_iff, Bool.not_eq_true, Nat.not_lt]
  rfl

/-- The check on MAX_SYMBOLS stands behind the whitespace check, so it comes after the read: the limit here is
IN_CAP (R103). -/
theorem decSymResult_eq_unwritten_iff {ws : List Byte} :
    decSymResult ws nullin len inp = .unwritten ↔
      nullin = false ∧ len ≤ 256 ∧ readInput inp len = none := by
  rw [decSymResult, check_eq_unwritten_iff, check_eq_unwritten_iff, check_eq_unwritten_iff,
    withInput_eq_unwritten_iff, ne_zero_and_readInput_eq_none_iff, Bool.not_eq_true, Nat.not_lt]
  · rfl
  · intro c
    rw [ne_eq, check_eq_unwritten_iff, check_eq_unwritten_iff]
    exact fun ⟨_, _, h⟩ => orInvalidSymbol_ne_unwritten _ c Result.noConfusion h

theorem beMinResult_eq_unwritten_iff :
    beMinResult nullin len inp = .unwritten ↔
      nullin = false ∧ len ≤ 256 ∧ readInput inp len = none := by
  rw [beMinResult, check_eq_unwritten_iff, check_eq_unwritten_iff,
    withInput_eq_unwritten_iff (fun _ => Result.noConfusion), Bool.not_eq_true, Nat.not_lt]
  rfl

theorem opResult_decRaw (nullin : Bool) (ws : List Byte) (len : Nat) (inp : Memory) :
    opResult 0b001#3 nullin false ws len inp = decRawResult nullin len inp := rfl

theorem opResult_decSym (nullin : Bool) (ws : List Byte) (len : Nat) (inp : Memory) :
    opResult 0b011#3 nullin false ws len inp = decSymResult ws nullin len inp := rfl

/-- An illegal command reads no entry (R88); each legal one reads its input behind its own length check. -/
theorem opResult_eq_unwritten_iff {op : BitVec 3} {rsv : Bool} {ws : List Byte} :
    opResult op nullin rsv ws len inp = .unwritten ↔
      rsv = false ∧ nullin = false ∧
      ((op = 0b000#3 ∨ op = 0b010#3) ∧ len ≤ 40 ∨ op = 0b001#3 ∧ len ≤ 64 ∨
        (op = 0b011#3 ∨ op = 0b100#3) ∧ len ≤ 256) ∧ readInput inp len = none := by
  by_cases hill : rsv = true ∨ 5 ≤ op.toNat
  · refine iff_of_false (by rw [opResult_illegal hill]; exact Result.noConfusion) ?_
    rintro ⟨rfl, -, ⟨rfl | rfl, -⟩ | ⟨rfl, -⟩ | ⟨rfl | rfl, -⟩, -⟩ <;> exact absurd hill (by decide)
  · obtain ⟨hrsv, hop⟩ := not_or.mp hill
    obtain rfl := Bool.eq_false_of_not_eq_true hrsv
    obtain rfl | rfl | rfl | rfl | rfl :
        op = 0b000#3 ∨ op = 0b001#3 ∨ op = 0b010#3 ∨ op = 0b011#3 ∨ op = 0b100#3 := by
      revert op
      decide
    · simp [opResult_encRaw, encodeResult_eq_unwritten_iff]
    · simp [opResult_decRaw, decRawResult_eq_unwritten_iff]
    · simp [opResult_encSym, encodeResult_eq_unwritten_iff]
    · simp [opResult_decSym, decSymResult_eq_unwritten_iff]
    · simp [opResult_beMin, beMinResult_eq_unwritten_iff]

end Unwritten

/-! ### COMPLETE and START -/

section Steps

variable {s t : State} {i : Instr}

theorem complete_eq_fault_iff : complete s = .fault .unwrittenInput ↔ s.result = .unwritten := by
  rcases complete_cases s with ⟨out, hr, hc⟩ | ⟨kind, index, value, hr, hc⟩ | ⟨hr, hc⟩ <;> simp [hr, hc]

/-- A completion keeps the written entries. -/
theorem complete_inBuf (h : complete s = .next t) : t.inBuf = s.inBuf := by
  rcases complete_eq_next h with ⟨out, _, rfl⟩ | ⟨kind, index, value, _, rfl⟩ <;> rfl

/-- A START keeps the written entries, accepted or ignored. -/
theorem exec_startRow_inBuf (h : IsStartRow i) (he : exec i s = .next t) : t.inBuf = s.inBuf := by
  obtain ⟨op, nullin, rsv, hs⟩ := exec_startRow h s
  obtain rfl := Host.Outcome.next.inj (hs.symm.trans he)
  cases hb : s.busy
  · rw [State.command_idle hb]
    rfl
  · rw [State.command_busy hb]
    rfl

end Steps

/-- Settles O23: `opResult_eq_unwritten_iff` says when EXEC reads an entry that is not written, and COMPLETE
faults exactly then. -/
theorem unwrittenInputFaultsExactly : Obligations.UnwrittenInputFaultsExactly := by
  unfold Obligations.UnwrittenInputFaultsExactly
  refine ⟨fun s => ?_, fun _ _ => complete_inBuf, fun _ _ _ => exec_startRow_inBuf⟩
  rw [complete_eq_fault_iff, State.result, opResult_eq_unwritten_iff, readInput_eq_none_iff]

end Sys2Proof.Machine
end

section
/-! PROOFS. The decoder and the encoder (30_encoding.md R43..R49, 20_memory.md R30): the window's offsets, and the
two round trips. One fact carries each: a CMD word is decoded to the fields it was made of, and it is made
of the fields it decodes to. -/

namespace Sys2Proof

variable {page a : Nat} {off : Offset} {w : Word}

/-! ### The window (R30) -/

theorem base_eq (page : Nat) : Config.base page = 4096 * page := rfl

/-- The offset of an address is its distance from BASE. -/
theorem windowOffset_eq_some_iff : windowOffset page a = some off ↔ a = 4096 * page + off.toNat := by
  constructor
  · intro h
    unfold windowOffset at h
    split_ifs at h with hw
    rw [base_eq, Config.window] at hw
    obtain rfl := Option.some.inj h
    rw [BitVec.toNat_ofNat, base_eq]
    omega
  · rintro rfl
    exact windowOffset_base page off

theorem windowOffset_eq_none_iff :
    windowOffset page a = none ↔ a < 4096 * page ∨ 4096 * page + 4096 ≤ a := by
  unfold windowOffset
  rw [base_eq, Config.window]
  split_ifs with hw
  · exact iff_of_false (by simp) (by omega)
  · exact iff_of_true rfl (by omega)

/-- Settles O7: the offset is the distance from BASE, and a distance below 4096 is one. -/
theorem windowOffsets : Obligations.WindowOffsets := by
  unfold Obligations.WindowOffsets
  refine fun page a => ⟨fun off => ?_, windowOffset_eq_none_iff⟩
  have := off.isLt
  rw [windowOffset_eq_some_iff]
  omega

/-! ### CMD words (R43) -/

theorem decodeCmd_opWord (op : BitVec 3) (nullin : Bool) : decodeCmd (opWord op nullin) = opRow op nullin := by
  rw [opWord, decodeCmd_of_op (by simp) (by simp), cmdOp_cmdWord, cmdNullin_cmdWord]

theorem decodeCmd_reserved (op : BitVec 3) (nullin : Bool) {rsv : BitVec 27} (h : rsv ≠ 0#27) :
    decodeCmd (cmdWord rsv nullin op true) = .illegalRsv op nullin rsv := by
  rw [decodeCmd_of_rsv (by simp) (by simpa using h), cmdOp_cmdWord, cmdNullin_cmdWord, cmdRsv_cmdWord]

theorem decodeCmd_shift (rest : BitVec 31) : decodeCmd (rest.setWidth 32 <<< 1) = .nop rest := by
  rw [decodeCmd_of_noStart (cmdStart_shift rest), extract_shift]

/-- A word is made of its own four fields. -/
theorem cmdWord_fields (w : Word) : cmdWord (cmdRsv w) (cmdNullin w) (cmdOp w) (cmdStart w) = w := by
  ext i hi
  by_cases h5 : i < 5
  · interval_cases i <;> simp [cmdWord, cmdRsv, cmdNullin, cmdOp, cmdStart, BitVec.getLsbD_eq_getElem]
  · have hplace : i - 5 < 27 ∧ 5 + (i - 5) = i ∧ ¬ i - 1 < 3 ∧ ¬ i < 4 ∧ ¬ i < 1 ∧ ¬ i - 4 = 0 ∧ ¬ i = 0 := by
      omega
    simp [cmdWord, cmdRsv, cmdNullin, cmdOp, cmdStart, BitVec.getLsbD_eq_getElem, h5, hi, hplace]

/-- A word with START = 0 is made of the 31 bits above it. -/
theorem shift_extract (h : cmdStart w = false) : (w.extractLsb' 1 31).setWidth 32 <<< 1 = w := by
  rw [cmdStart_eq_false_iff] at h
  have hlt := w.isLt
  apply BitVec.eq_of_toNat_eq
  simp only [BitVec.toNat_shiftLeft, BitVec.toNat_setWidth, BitVec.extractLsb'_toNat, Nat.shiftRight_eq_div_pow,
    Nat.shiftLeft_eq]
  omega

/-! ### The round trips -/

theorem wellFormed_wr_iff (off : Offset) (width : Nat) (v : Word) :
    (Instr.wr off width v).wellFormed = true ↔ ¬ (off = 0x004#12 ∧ width = Config.busWidth) := by
  simp [Instr.wellFormed, imp_iff_not_or]

theorem encode_opRow (page : Nat) (op : BitVec 3) (nullin : Bool) :
    encode page (opRow op nullin) = cmdWrite page (opWord op nullin) := by
  rcases op_cases op with rfl | rfl | rfl | rfl | rfl | rfl | rfl | rfl <;> rfl

theorem decode_encode_opRow (page : Nat) (op : BitVec 3) (nullin : Bool) :
    decode page (encode page (opRow op nullin)) = .instr (opRow op nullin) := by
  rw [encode_opRow, decode_cmdWrite, decodeCmd_opWord]

/-- Settles O2: a command row is the write of its word, which decodes to the row (`decodeCmd_opWord` and its
like); a bus access is found at its own offset. -/
theorem decodeEncodeRoundTrip : Obligations.DecodeEncodeRoundTrip := by
  unfold Obligations.DecodeEncodeRoundTrip
  intro page i hwf
  cases i with
  | encRaw nullin => exact decode_encode_opRow page 0b000#3 nullin
  | decRaw nullin => exact decode_encode_opRow page 0b001#3 nullin
  | encSym nullin => exact decode_encode_opRow page 0b010#3 nullin
  | decSym nullin => exact decode_encode_opRow page 0b011#3 nullin
  | beMin nullin => exact decode_encode_opRow page 0b100#3 nullin
  | illegalOp5 nullin => exact decode_encode_opRow page 0b101#3 nullin
  | illegalOp6 nullin => exact decode_encode_opRow page 0b110#3 nullin
  | illegalOp7 nullin => exact decode_encode_opRow page 0b111#3 nullin
  | illegalRsv op nullin rsv =>
    rw [encode, decode_cmdWrite, decodeCmd_reserved op nullin (by simpa [Instr.wellFormed] using hwf)]
  | nop rest => rw [encode, decode_cmdWrite, decodeCmd_shift]
  | rd off width => simp [encode, decode]
  | wr off width v =>
    have hcmd : ¬ (off = 0x004#12 ∧ width = Config.busWidth) := (wellFormed_wr_iff ..).mp hwf
    simp [encode, decode, hcmd]

/-- The word of the row that a word decodes to is the word itself. -/
theorem encode_decodeCmd (page : Nat) (w : Word) : encode page (decodeCmd w) = cmdWrite page w := by
  cases h : cmdStart w
  · rw [decodeCmd_of_noStart h, encode, shift_extract h]
  · have hw := cmdWord_fields w
    rw [h] at hw
    by_cases hr : cmdRsv w = 0#27
    · rw [decodeCmd_of_op h hr, encode_opRow, opWord, ← hr, hw]
    · rw [decodeCmd_of_rsv h hr, encode, hw]

theorem wellFormed_opRow (op : BitVec 3) (nullin : Bool) : (opRow op nullin).wellFormed = true := by
  rcases op_cases op with rfl | rfl | rfl | rfl | rfl | rfl | rfl | rfl <;> rfl

theorem wellFormed_decodeCmd (w : Word) : (decodeCmd w).wellFormed = true := by
  cases h : cmdStart w
  · rw [decodeCmd_of_noStart h, Instr.wellFormed]
  · by_cases hr : cmdRsv w = 0#27
    · rw [decodeCmd_of_op h hr, wellFormed_opRow]
    · rw [decodeCmd_of_rsv h hr, Instr.wellFormed, bne_iff_ne]
      exact hr

/-! ### Accesses -/

/-- The bus address of a host access. -/
def BusOp.address : BusOp → Nat
  | .read a _ => a
  | .write a _ _ => a

theorem BusOp.exists_address_iff (t : BusOp) (P : Nat → Prop) :
    (∃ a width, (t = .read a width ∨ ∃ v, t = .write a width v) ∧ P a) ↔ P t.address := by
  cases t <;> simp [BusOp.address]

/-- An access that reaches the window decodes to an instruction that is spelled by this very access. -/
theorem decode_inside {t : BusOp} (h : windowOffset page t.address = some off) :
    ∃ i, decode page t = .instr i ∧ i.wellFormed = true ∧ encode page i = t := by
  have ha := windowOffset_eq_some_iff.mp h
  cases t with
  | read a width =>
    obtain rfl : a = 4096 * page + off.toNat := ha
    exact ⟨.rd off width, by simp [decode, ← base_eq], rfl, rfl⟩
  | write a width v =>
    obtain rfl : a = 4096 * page + off.toNat := ha
    by_cases hcmd : off = 0x004#12 ∧ width = Config.busWidth
    · obtain ⟨rfl, rfl⟩ := hcmd
      exact ⟨decodeCmd v, decode_cmdWrite page v, wellFormed_decodeCmd v, encode_decodeCmd page v⟩
    · refine ⟨.wr off width v, by simp [decode, ← base_eq, hcmd],
        (wellFormed_wr_iff ..).mpr hcmd, rfl⟩

theorem decode_outside {t : BusOp} (h : windowOffset page t.address = none) :
    decode page t = .rejected .outsideWindow := by
  cases t with
  | read a width =>
    rw [BusOp.address] at h
    simp [decode, h]
  | write a width v =>
    rw [BusOp.address] at h
    simp [decode, h]

/-- What an access decodes to is well formed, and is spelled by that access. -/
theorem decode_eq_instr {t : BusOp} {i : Instr} (h : decode page t = .instr i) :
    i.wellFormed = true ∧ encode page i = t := by
  cases hoff : windowOffset page t.address with
  | some off =>
    obtain ⟨j, hj, hspelled⟩ := decode_inside hoff
    obtain rfl := Decoded.instr.inj (hj.symm.trans h)
    exact hspelled
  | none =>
    rw [decode_outside hoff] at h
    cases h

theorem decode_isInstr_iff (page : Nat) (t : BusOp) :
    (∃ i, decode page t = .instr i) ↔ 4096 * page ≤ t.address ∧ t.address < 4096 * page + 4096 := by
  cases hoff : windowOffset page t.address with
  | some off =>
    obtain ⟨i, hi, -⟩ := decode_inside hoff
    have ha := windowOffset_eq_some_iff.mp hoff
    have hlt := off.isLt
    exact iff_of_true ⟨i, hi⟩ (by omega)
  | none =>
    have ha := windowOffset_eq_none_iff.mp hoff
    rw [decode_outside hoff]
    exact iff_of_false (by simp) (by omega)

/-- Settles O3: `decode_eq_instr` and `decode_isInstr_iff`. -/
theorem encodeDecodeRoundTrip : Obligations.EncodeDecodeRoundTrip := by
  unfold Obligations.EncodeDecodeRoundTrip
  intro page t
  rw [t.exists_address_iff fun a => 4096 * page ≤ a ∧ a < 4096 * page + 4096]
  exact ⟨fun i => decode_eq_instr, decode_isInstr_iff page t⟩

/-- Settles O1: the words are computed. -/
theorem specWordsDecode : Obligations.SpecWordsDecode := by
  unfold Obligations.SpecWordsDecode
  decide

end Sys2Proof
end

section
/-! PROOFS. The frames: what a read, a write, a START row and COMPLETE leave unchanged, and that a plain write
done twice is done once (20_memory.md R35, 40_command_execution.md R53..R58). Each rests on the lemma that
says once what its operation can do. -/

namespace Sys2Proof.Machine

variable {s t : State} {i : Instr}

/-! ### Reads and the no-operation -/

theorem execRd_frame {off : Offset} {width : Nat} (h : execRd off width s = .next t) :
    t = { s with resp := t.resp, draws := t.draws } := by
  rcases execRd_cases off width s with ⟨_, w, _, e⟩ | ⟨_, _, e⟩ | ⟨_, e⟩ <;>
    obtain rfl := Host.Outcome.next.inj (e.symm.trans h) <;> rfl

/-- Settles O15: a read and the no-operation only answer, a read of a free byte counting it. -/
theorem readAndNopFrame : Obligations.ReadAndNopFrame := by
  unfold Obligations.ReadAndNopFrame
  rintro i s t (⟨off, width, rfl⟩ | ⟨r, rfl⟩) he
  · exact execRd_frame he
  · obtain rfl := Host.Outcome.next.inj ((exec_nop r s).symm.trans he)
    rfl

/-! ### Writes -/

/-- WBUSY changes only at the places whose writes a running operation ignores, and at STATUS. -/
theorem writeWord_wbusy (s : State) (v : Word) (l : Loc) (h : (s.writeWord v l).wbusy ≠ s.wbusy) :
    l = .cmd ∨ l = .status ∨ l = .inLen ∨ ∃ i, l = .inEntry i := by
  cases l with
  | cmd => exact .inl rfl
  | status => exact .inr (.inl rfl)
  | inLen => exact .inr (.inr (.inl rfl))
  | inEntry i => exact .inr (.inr (.inr ⟨i, rfl⟩))
  | _ => exact absurd rfl h

/-- Settles O16: each effect that `State.writeWord_cases` lists changes the fields of its own place, and an
ignored write only WBUSY. -/
theorem writeFrame : Obligations.WriteFrame := by
  unfold Obligations.WriteFrame
  intro off width v s t he
  rcases execWr_cases off width v s with ⟨_, e⟩ | ⟨_, e⟩ <;>
    obtain rfl := Host.Outcome.next.inj (e.symm.trans he)
  · have hwbusy := writeWord_wbusy s v (locate off)
    rcases s.writeWord_cases v (locate off) with
      h | ⟨hl, _, _, h⟩ | ⟨_, h⟩ | ⟨hl, h⟩ | ⟨hl, h⟩ | ⟨hl, _, h⟩ | ⟨k, hl, _, h⟩ <;>
      rw [h] at hwbusy ⊢
    · simp
    · simp [hl]
    · simpa using hwbusy
    · simp [hl]
    · simp [hl]
    · simp [hl]
    · simpa [hl] using fun j hj => Memory.read_write_other s.inBuf (v.setWidth 8) hj
  · simp

/-! ### A write done twice (R35) -/

theorem Memory.write_write_same (m : Memory) (a : Nat) (v : Byte) : (m.write a v).write a v = m.write a v := by
  induction m with
  | nil => simp [Memory.write]
  | cons c rest ih =>
    obtain ⟨k, b⟩ := c
    rw [Memory.write]
    split_ifs with hlt heq
    · simp [Memory.write]
    · simp [Memory.write]
    · rw [Memory.write, if_neg hlt, if_neg heq, ih]

theorem issue_respond (s : State) (r : Resp) (op : BitVec 3) (nullin rsv : Bool) :
    (s.respond r).issue op nullin rsv = (s.issue op nullin rsv).respond r := by
  cases hb : s.busy <;> simp [State.issue, hb] <;> rfl

/-- What a write does to a place does not depend on the last answer. -/
theorem writeWord_respond (s : State) (r : Resp) (v : Word) (l : Loc) :
    (s.respond r).writeWord v l = (s.writeWord v l).respond r := by
  cases l with
  | cmd => cases hv : cmdStart v <;> simp [State.writeWord, State.writeCmd, hv, issue_respond]
  | inLen => cases hb : s.busy <;> simp [State.writeWord, hb] <;> rfl
  | inEntry i => cases hb : s.busy <;> simp [State.writeWord, hb] <;> rfl
  | _ => rfl

/-- Each place but STATUS takes the same word again without a change, CMD where the word starts nothing. -/
theorem writeWord_writeWord (s : State) {v : Word} {l : Loc} (hcmd : l = .cmd → cmdStart v = false)
    (hstatus : l ≠ .status) : (s.writeWord v l).writeWord v l = s.writeWord v l := by
  cases l with
  | status => exact absurd rfl hstatus
  | cmd => simp [State.writeWord, State.writeCmd, hcmd rfl]
  | inLen => cases hb : s.busy <;> simp [State.writeWord, hb] <;> rfl
  | inEntry i =>
    cases hb : s.busy
    · simp [State.writeWord, hb, State.writeInput, Memory.write_write_same]
    · simp [State.writeWord, hb]
      rfl
  | _ => rfl

/-- Only offset 0x004 is CMD. -/
theorem eq_of_locate_cmd {off : Offset} (h : locate off = .cmd) : off = 0x004#12 := by
  unfold locate at h
  split_ifs at h with _ _ hoff
  exact hoff

/-- Settles O14: a refused write only answers, and a performed one is `writeWord_writeWord`. -/
theorem plainWritesAreIdempotent : Obligations.PlainWritesAreIdempotent := by
  unfold Obligations.PlainWritesAreIdempotent
  intro off width v s t hcmd hstatus he
  rcases execWr_cases off width v s with ⟨ha, e⟩ | ⟨ha, e⟩ <;>
    obtain rfl := Host.Outcome.next.inj (e.symm.trans he)
  · obtain ⟨rfl, _⟩ := (accessOk_iff off width).mp ha
    have hstart : locate off = .cmd → cmdStart v = false := fun hl =>
      (cmdStart_eq_false_iff v).mpr (hcmd (eq_of_locate_cmd hl))
    have hagain : ((s.writeWord v (locate off)).respond .written).writeWord v (locate off) =
        (s.writeWord v (locate off)).respond .written := by
      rw [writeWord_respond, writeWord_writeWord s hstart fun hl => hstatus (eq_of_locate_status hl)]
    exact (exec_wr_of_writeWord ha hagain).trans rfl
  · exact execWr_refused ha v _

/-! ### START rows and COMPLETE -/

/-- Settles O18: a START row issues a command, which an idle state takes as a START and a busy one
ignores. -/
theorem startRowFrame : Obligations.StartRowFrame := by
  unfold Obligations.StartRowFrame
  intro i s t hi he
  obtain ⟨op, nullin, rsv, hs⟩ := exec_startRow hi s
  obtain rfl := Host.Outcome.next.inj (hs.symm.trans he)
  rcases s.issue_cases op nullin rsv with ⟨hb, h⟩ | ⟨hb, h⟩ <;> rw [State.command, h]
  · exact ⟨fun _ => rfl, rfl, rfl, rfl, rfl, rfl, fun hbusy => by simp [hb] at hbusy⟩
  · exact ⟨fun _ => rfl, rfl, rfl, rfl, rfl, rfl, fun _ => rfl⟩

/-- Settles O22: neither end of a completion touches these fields. -/
theorem completeFrame : Obligations.CompleteFrame := by
  unfold Obligations.CompleteFrame
  intro s t h
  rcases complete_eq_next h with ⟨out, _, rfl⟩ | ⟨kind, index, value, _, rfl⟩
  · simp
  · simp

end Sys2Proof.Machine
end

section
/-! PROOFS. What EXEC answers: its result depends only on what it reads (40_command_execution.md R59), and an error
has the cause its code names (60_exceptions.md R87, R88). -/

namespace Sys2Proof.Machine

section Congruence

variable {len : Nat} {inp inp' : Memory}

/-! ### EXEC reads the entries below LEN, and none when LEN is above IN_CAP (R59) -/

theorem readInput_congr (h : ∀ i, i < len → inp.read i = inp'.read i) :
    readInput inp len = readInput inp' len := by
  have hsome : ∀ b, readInput inp len = some b ↔ readInput inp' len = some b := by
    intro b
    rw [readInput, readInput, readEntries_eq_some, readEntries_eq_some]
    simp +contextual [h]
  exact Option.ext hsome

theorem withInput_congr (h : readInput inp len = readInput inp' len) (f : List Byte → Result) :
    withInput inp len f = withInput inp' len f := by
  rw [withInput, withInput, h]

/-- A length above IN_CAP is above the limit of each operation, so it ends before the read. -/
theorem opResult_congr_of_large (h : 256 < len) (op : BitVec 3) (nullin rsv : Bool) (ws : List Byte) :
    opResult op nullin rsv ws len inp = opResult op nullin rsv ws len inp' := by
  have hgroups : groupCount len > Config.maxGroups := by
    rw [groupCount_eq, Config.maxGroups]
    omega
  have hsymbols : len > Config.maxSymbols := Nat.lt_trans (by decide) h
  have hcap : len > Config.inCap := h
  simp only [opResult, encRawResult, encSymResult, encodeResult, decRawResult, decSymResult, beMinResult,
    if_pos hgroups, if_pos hsymbols, if_pos hcap]

theorem opResult_congr (h : ∀ i, i < len → i < 256 → inp.read i = inp'.read i) (op : BitVec 3)
    (nullin rsv : Bool) (ws : List Byte) :
    opResult op nullin rsv ws len inp = opResult op nullin rsv ws len inp' := by
  by_cases hlen : len ≤ 256
  · have hread : readInput inp len = readInput inp' len :=
      readInput_congr fun i hi => h i hi (Nat.lt_of_lt_of_le hi hlen)
    simp only [opResult, encRawResult, encSymResult, encodeResult, decRawResult, decSymResult, beMinResult,
      withInput_congr hread]
  · exact opResult_congr_of_large (Nat.not_le.mp hlen) op nullin rsv ws

end Congruence

/-- States with one result complete alike, and show the same (70_reset_and_hazards.md R110). -/
theorem complete_next_congr {s s' t : State} (hr : s'.result = s.result) (h : complete s = .next t) :
    ∃ t', complete s' = .next t' ∧ t'.observe = t.observe := by
  rcases complete_eq_next h with ⟨out, hs, rfl⟩ | ⟨kind, index, value, hs, rfl⟩
  · exact ⟨_, complete_of_ok (hr.trans hs), rfl⟩
  · exact ⟨_, complete_of_err (hr.trans hs), rfl⟩

/-- Settles O24: states that agree on what EXEC reads have one result. -/
theorem resultDependsOnOperandsOnly : Obligations.ResultDependsOnOperandsOnly := by
  unfold Obligations.ResultDependsOnOperandsOnly
  intro s s' hop hnullin hrsv hlen hws hread
  have hr : s.result = s'.result := by
    rw [State.result, State.result, ← hop, ← hnullin, ← hrsv, ← hlen, ← hws]
    exact opResult_congr hread ..
  refine ⟨by rw [complete_eq_fault_iff, complete_eq_fault_iff, hr], fun t t' ht ht' => ?_⟩
  obtain ⟨u, hu, hobs⟩ := complete_next_congr hr ht'
  obtain rfl := Host.Outcome.next.inj (hu.symm.trans ht)
  exact hobs

/-! ### The causes of an error (R87, R88) -/

section Causes

variable {op : BitVec 3} {nullin rsv : Bool} {ws : List Byte} {len : Nat} {inp : Memory} {kind : ErrKind}
  {index value : Byte}

/-- Entry `i` is the lowest below LEN that offends, LEN being one of a symbol string. -/
structure FirstBad (bad : Byte → Bool) (len : Nat) (inp : Memory) (i value : Byte) : Prop where
  len_le : len ≤ 64
  index_lt : i.toNat < len
  read_eq : inp.read i.toNat = some value
  offends : bad value = true
  before : ∀ j c, j < i.toNat → inp.read j = some c → bad c = false

/-- The error table of R87 for a legal command: one constructor for each cause. -/
inductive Cause (op : BitVec 3) (nullin : Bool) (ws : List Byte) (len : Nat) (inp : Memory) :
    ErrKind → Byte → Byte → Prop
  | nullin : nullin = true → Cause op nullin ws len inp .invalidInput 0#8 0#8
  | empty : len = 0 → op ≠ 0b100#3 → Cause op nullin ws len inp .invalidInput 0#8 0#8
  | blank : op = 0b011#3 → (∀ i, i < len → ∃ c, inp.read i = some c ∧ c ∈ ws) →
      Cause op nullin ws len inp .invalidInput 0#8 0#8
  | long : 256 < len → Cause op nullin ws len inp .tooLarge 0#8 0#8
  | manyGroups : op = 0b000#3 ∨ op = 0b010#3 → 64 < groupCount len →
      Cause op nullin ws len inp .tooLarge 0#8 0#8
  | manySymbols : op = 0b001#3 ∨ op = 0b011#3 → 64 < len → Cause op nullin ws len inp .tooLarge 0#8 0#8
  | group (i e : Byte) : op = 0b001#3 → FirstBad notGroup len inp i e →
      Cause op nullin ws len inp .invalidSymbol i e
  | symbol (i e : Byte) : op = 0b011#3 → FirstBad notSymbol len inp i e →
      Cause op nullin ws len inp .invalidSymbol i e

/-- A check raises its own error, or the operation goes on to raise one. -/
theorem check_eq_err {c : Prop} [Decidable c] {k : ErrKind} {r : Result}
    (h : (if c then .err k 0#8 0#8 else r) = .err kind index value) :
    (c ∧ k = kind ∧ 0#8 = index ∧ 0#8 = value) ∨ (¬ c ∧ r = .err kind index value) := by
  split at h
  · next hc =>
    simp only [Result.err.injEq] at h
    exact .inl ⟨hc, h⟩
  · next hc => exact .inr ⟨hc, h⟩

/-- An error past the read came from an input read whole. -/
theorem withInput_eq_err {f : List Byte → Result} (h : withInput inp len f = .err kind index value) :
    ∃ b, b.length = len ∧ (∀ i, i < len → inp.read i = b[i]?) ∧ f b = .err kind index value := by
  rcases withInput_cases inp len f with ⟨b, hl, hb, e⟩ | ⟨_, _, _, e⟩ <;> rw [e] at h
  · exact ⟨b, hl, hb, h⟩
  · cases h

/-- The only error of the search is InvalidSymbol at the lowest offending entry. -/
theorem orInvalidSymbol_eq_err {bad : Byte → Bool} {entries out : List Byte}
    (hlen : entries.length ≤ 64) (hread : ∀ i, i < entries.length → inp.read i = entries[i]?)
    (h : orInvalidSymbol bad entries (.ok out) = .err kind index value) :
    kind = .invalidSymbol ∧ FirstBad bad entries.length inp index value := by
  unfold orInvalidSymbol at h
  split at h
  · next i e hfirst =>
    obtain ⟨j, hj, hentry, hbad, hbefore⟩ := (firstOffending_eq_some bad 0 entries i e).mp hfirst
    obtain rfl : i = j := hj.trans (Nat.zero_add j)
    obtain ⟨hi, -⟩ := List.getElem?_eq_some_iff.mp hentry
    simp only [Result.err.injEq] at h
    obtain ⟨rfl, rfl, rfl⟩ := h
    have hval : (BitVec.ofNat 8 i).toNat = i := Nat.mod_eq_of_lt (by omega)
    refine ⟨rfl, { len_le := hlen, offends := hbad, index_lt := ?_, read_eq := ?_,
                   before := fun k c hk hc => ?_ }⟩
    · rwa [hval]
    · rw [hval, hread i hi, hentry]
    · rw [hval] at hk
      exact hbefore k c hk ((hread k (Nat.lt_trans hk hi)).symm.trans hc)
  · cases h

theorem encodeResult_cause {form : Group → Byte} (hop : op = 0b000#3 ∨ op = 0b010#3)
    (h : encodeResult form nullin len inp = .err kind index value) :
    Cause op nullin ws len inp kind index value := by
  unfold encodeResult at h
  rcases check_eq_err h with ⟨hn, rfl, rfl, rfl⟩ | ⟨-, h⟩
  · exact .nullin hn
  rcases check_eq_err h with ⟨he, rfl, rfl, rfl⟩ | ⟨-, h⟩
  · exact .empty he (by rcases hop with rfl | rfl <;> decide)
  rcases check_eq_err h with ⟨hm, rfl, rfl, rfl⟩ | ⟨-, h⟩
  · exact .manyGroups hop hm
  obtain ⟨b, -, -, hb⟩ := withInput_eq_err h
  cases hb

theorem decRawResult_cause (h : decRawResult nullin len inp = .err kind index value) :
    Cause 0b001#3 nullin ws len inp kind index value := by
  unfold decRawResult at h
  rcases check_eq_err h with ⟨hn, rfl, rfl, rfl⟩ | ⟨-, h⟩
  · exact .nullin hn
  rcases check_eq_err h with ⟨he, rfl, rfl, rfl⟩ | ⟨-, h⟩
  · exact .empty he (by decide)
  rcases check_eq_err h with ⟨hm, rfl, rfl, rfl⟩ | ⟨hm, h⟩
  · exact .manySymbols (.inl rfl) hm
  obtain ⟨g, rfl, hread, hg⟩ := withInput_eq_err h
  obtain ⟨rfl, hfirst⟩ := orInvalidSymbol_eq_err (Nat.not_lt.mp hm) hread hg
  exact .group _ _ rfl hfirst

theorem decSymResult_cause (h : decSymResult ws nullin len inp = .err kind index value) :
    Cause 0b011#3 nullin ws len inp kind index value := by
  unfold decSymResult at h
  rcases check_eq_err h with ⟨hn, rfl, rfl, rfl⟩ | ⟨-, h⟩
  · exact .nullin hn
  rcases check_eq_err h with ⟨he, rfl, rfl, rfl⟩ | ⟨-, h⟩
  · exact .empty he (by decide)
  rcases check_eq_err h with ⟨hm, rfl, rfl, rfl⟩ | ⟨-, h⟩
  · exact .long hm
  obtain ⟨cs, rfl, hread, hc⟩ := withInput_eq_err h
  rcases check_eq_err hc with ⟨hws, rfl, rfl, rfl⟩ | ⟨-, hc⟩
  · refine .blank rfl fun i hi => ⟨cs[i], ?_, (allWs_eq_true_iff cs).mp hws _ (List.getElem_mem hi)⟩
    rw [hread i hi, List.getElem?_eq_getElem hi]
  rcases check_eq_err hc with ⟨hm, rfl, rfl, rfl⟩ | ⟨hm, hc⟩
  · exact .manySymbols (.inr rfl) hm
  obtain ⟨rfl, hfirst⟩ := orInvalidSymbol_eq_err (Nat.not_lt.mp hm) hread hc
  exact .symbol _ _ rfl hfirst

theorem beMinResult_cause (h : beMinResult nullin len inp = .err kind index value) :
    Cause 0b100#3 nullin ws len inp kind index value := by
  unfold beMinResult at h
  rcases check_eq_err h with ⟨hn, rfl, rfl, rfl⟩ | ⟨-, h⟩
  · exact .nullin hn
  rcases check_eq_err h with ⟨hm, rfl, rfl, rfl⟩ | ⟨-, h⟩
  · exact .long hm
  obtain ⟨b, -, -, hb⟩ := withInput_eq_err h
  cases hb

/-- A legal command names one of the five operations. -/
theorem legal_op_cases (h : ¬ 5 ≤ op.toNat) :
    op = 0b000#3 ∨ op = 0b001#3 ∨ op = 0b010#3 ∨ op = 0b011#3 ∨ op = 0b100#3 := by
  revert op
  decide

/-- An error of EXEC is IllegalCommand of an illegal command, or has a cause of the table. -/
theorem opResult_eq_err (h : opResult op nullin rsv ws len inp = .err kind index value) :
    ((rsv = true ∨ 5 ≤ op.toNat) ∧ kind = .illegalCommand ∧ index = 0#8 ∧ value = 0#8) ∨
    (¬ (rsv = true ∨ 5 ≤ op.toNat) ∧ Cause op nullin ws len inp kind index value) := by
  by_cases hill : rsv = true ∨ 5 ≤ op.toNat
  · rw [opResult_illegal hill, Result.err.injEq] at h
    exact .inl ⟨hill, h.1.symm, h.2.1.symm, h.2.2.symm⟩
  · refine .inr ⟨hill, ?_⟩
    obtain ⟨hrsv, hop⟩ := not_or.mp hill
    obtain rfl := Bool.eq_false_of_not_eq_true hrsv
    rcases legal_op_cases hop with rfl | rfl | rfl | rfl | rfl
    · exact encodeResult_cause (.inl rfl) ((opResult_encRaw ..).symm.trans h)
    · exact decRawResult_cause ((opResult_decRaw ..).symm.trans h)
    · exact encodeResult_cause (.inr rfl) ((opResult_encSym ..).symm.trans h)
    · exact decSymResult_cause ((opResult_decSym ..).symm.trans h)
    · exact beMinResult_cause ((opResult_beMin ..).symm.trans h)

/-- The index and the value are reported with InvalidSymbol only. -/
theorem Cause.index_value (h : Cause op nullin ws len inp kind index value) (hk : kind ≠ .invalidSymbol) :
    index = 0#8 ∧ value = 0#8 := by
  cases h
  case group => exact absurd rfl hk
  case symbol => exact absurd rfl hk
  all_goals exact ⟨rfl, rfl⟩

theorem Cause.ne_illegalCommand (h : Cause op nullin ws len inp kind index value) :
    kind ≠ .illegalCommand := by
  cases h <;> exact ErrKind.noConfusion

/-- The index reported is below MAX_SYMBOLS. -/
theorem Cause.index_lt (h : Cause op nullin ws len inp kind index value) : index.toNat < 64 := by
  cases h
  case group _ hbad => exact Nat.lt_of_lt_of_le hbad.index_lt hbad.len_le
  case symbol _ hbad => exact Nat.lt_of_lt_of_le hbad.index_lt hbad.len_le
  all_goals decide

end Causes

/-- Settles O25: `opResult_eq_err` gives the cause, which is read off for each code. -/
theorem errorsHaveTheirCauses : Obligations.ErrorsHaveTheirCauses := by
  unfold Obligations.ErrorsHaveTheirCauses
  intro s kind index value h
  rcases opResult_eq_err h with ⟨hill, rfl, rfl, rfl⟩ | ⟨hlegal, hcause⟩
  · simpa using hill
  refine ⟨iff_of_false hcause.ne_illegalCommand hlegal, hcause.index_value, ?_⟩
  cases hcause with
  | nullin hn => exact ⟨fun _ => .inl hn, nofun, nofun⟩
  | empty he hop => exact ⟨fun _ => .inr (.inl ⟨BitVec.eq_of_toNat_eq he, hop⟩), nofun, nofun⟩
  | blank hop hws => exact ⟨fun _ => .inr (.inr ⟨hop, hws⟩), nofun, nofun⟩
  | long hm => exact ⟨nofun, fun _ => .inl hm, nofun⟩
  | manyGroups hop hm => exact ⟨nofun, fun _ => .inr (.inr ⟨hop, hm⟩), nofun⟩
  | manySymbols hop hm => exact ⟨nofun, fun _ => .inr (.inl ⟨hop, hm⟩), nofun⟩
  | group _ _ hop hbad =>
    exact ⟨nofun, nofun, fun _ => ⟨hbad.len_le, hbad.index_lt, hbad.read_eq,
      .inl ⟨hop, (notGroup_eq_true_iff value).mp hbad.offends,
        fun j c hj hc => (notGroup_eq_false_iff c).mp (hbad.before j c hj hc)⟩⟩⟩
  | symbol _ _ hop hbad =>
    exact ⟨nofun, nofun, fun _ => ⟨hbad.len_le, hbad.index_lt, hbad.read_eq,
      .inr ⟨hop, (notSymbol_eq_true_iff value).mp hbad.offends,
        fun j c hj hc => (notSymbol_eq_false_iff c).mp (hbad.before j c hj hc)⟩⟩⟩

end Sys2Proof.Machine
end

section
/-! PROOFS. The invariant (10_state.md R18, R21..R24): it holds at reset, every step keeps it, and under it a read of
OUT is defined exactly below OUT_LEN. One lemma per update of State says that the update keeps it. -/

namespace Sys2Proof.Machine

variable {s t u : State} {i : Instr}

/-! ### The updates -/

theorem State.Inv.respond (h : s.Inv) (r : Resp) : (s.respond r).Inv := h

theorem State.Inv.respondFree (h : s.Inv) : s.respondFree.Inv := h

theorem State.Inv.ignoreWrite (h : s.Inv) : s.ignoreWrite.Inv := h

theorem State.Inv.setIntEn (h : s.Inv) (v : Word) : (s.setIntEn v).Inv := h

theorem State.Inv.setInLen (h : s.Inv) (v : Word) : (s.setInLen v).Inv := h

theorem State.Inv.withAgenda (h : s.Inv) (agenda : List Event) : (s.withAgenda agenda).Inv := h

/-- DONE stays 0 while BUSY, for a clearing write never sets it. -/
theorem State.Inv.clearStatus (h : s.Inv) (v : Word) : (s.clearStatus v).Inv := by
  obtain ⟨⟨hbusy, herr⟩, hrest⟩ := h
  refine ⟨⟨fun hb => ?_, herr⟩, hrest⟩
  obtain ⟨hdone, hclean⟩ := hbusy hb
  exact ⟨by simp [hdone], hclean⟩

theorem State.Inv.writeInput (h : s.Inv) (i : Index) (v : Word) : (s.writeInput i v).Inv := by
  obtain ⟨hstatus, hout, hinfo, hin, hwf⟩ := h
  exact ⟨hstatus, hout, hinfo, Memory.wf_write hin i _, hwf⟩

/-- An empty OUT has no value below an OUT_LEN of 0. -/
theorem outputLegal_of_empty (hlen : s.outLen = 0#9) (hbuf : s.outBuf = []) : s.OutputLegal := by
  refine ⟨fun _ => hlen, ?_, fun i => ?_⟩
  · rw [hlen]
    decide
  · rw [hlen, hbuf]
    simp

theorem State.Inv.start (h : s.Inv) (op : BitVec 3) (nullin rsv : Bool) : (s.start op nullin rsv).Inv := by
  obtain ⟨-, -, -, hin, -⟩ := h
  exact ⟨⟨fun _ => ⟨rfl, rfl, rfl⟩, by simp, by simp⟩, outputLegal_of_empty rfl rfl,
    ⟨fun _ => ⟨rfl, rfl⟩, by simp⟩, hin, rfl⟩

theorem applyReset_inv (s : State) : s.applyReset.Inv :=
  ⟨⟨nofun, by simp, by simp⟩, outputLegal_of_empty rfl rfl, ⟨fun _ => ⟨rfl, rfl⟩, by simp⟩, rfl, rfl⟩

/-- A result that fits OUT defines exactly the entries below OUT_LEN. -/
theorem State.Inv.commitOk (h : s.Inv) {out : List Byte} (hlen : out.length ≤ 256) : (s.commitOk out).Inv := by
  obtain ⟨-, -, -, hin, -⟩ := h
  obtain ⟨-, -, -, -, -, -, hout, hread⟩ := s.commitOk_succeeded hlen
  refine ⟨⟨nofun, by simp, by simp⟩, ⟨by simp, ?_, fun i => ?_⟩, ⟨fun _ => ⟨rfl, rfl⟩, by simp⟩, hin,
    Memory.wf_fill out hlen⟩
  · rw [hout]
    exact hlen
  · rw [hout, hread]
    simp

theorem ErrKind.code_ne_zero (kind : ErrKind) : kind.code ≠ 0#3 := by cases kind <;> decide

theorem ErrKind.code_le (kind : ErrKind) : kind.code.toNat ≤ 4 := by cases kind <;> decide

/-- An error keeps ERR_INFO legal when only InvalidSymbol has an index and a value, the index below 64. -/
theorem State.Inv.commitErr (h : s.Inv) {kind : ErrKind} {index value : Byte}
    (hinfo : kind ≠ .invalidSymbol → index = 0#8 ∧ value = 0#8) (hindex : index.toNat < 64) :
    (s.commitErr kind index value).Inv := by
  obtain ⟨-, -, -, hin, -⟩ := h
  refine ⟨⟨nofun, by simp [kind.code_ne_zero], kind.code_le⟩, outputLegal_of_empty rfl rfl,
    ⟨fun hcode => hinfo ?_, hindex⟩, hin, rfl⟩
  rintro rfl
  exact hcode rfl

/-! ### The steps -/

theorem State.result_err_info {kind : ErrKind} {index value : Byte} (h : s.result = .err kind index value) :
    (kind ≠ .invalidSymbol → index = 0#8 ∧ value = 0#8) ∧ index.toNat < 64 := by
  rcases opResult_eq_err h with ⟨-, rfl, rfl, rfl⟩ | ⟨-, hcause⟩
  · exact ⟨fun _ => ⟨rfl, rfl⟩, by decide⟩
  · exact ⟨hcause.index_value, hcause.index_lt⟩

theorem State.Inv.complete (h : s.Inv) (hc : complete s = .next t) : t.Inv := by
  rcases complete_eq_next hc with ⟨out, hr, rfl⟩ | ⟨kind, index, value, hr, rfl⟩
  · exact h.commitOk (State.result_length_le hr)
  · obtain ⟨hinfo, hindex⟩ := State.result_err_info hr
    exact h.commitErr hinfo hindex

theorem State.Inv.effect (h : s.Inv) (he : Effect s u) : u.Inv := by
  cases he with
  | none => exact h
  | free => exact h.respondFree
  | start op nullin rsv _ => exact h.start op nullin rsv
  | ignored _ => exact h.ignoreWrite
  | clear v => exact h.clearStatus v
  | enable v => exact h.setIntEn v
  | length v _ => exact h.setInLen v
  | entry i v _ => exact h.writeInput i v

theorem State.Inv.exec (h : s.Inv) (he : exec i s = .next t) : t.Inv := by
  obtain ⟨u, r, heff, e | ⟨-, e⟩⟩ := exec_effect i s <;> obtain rfl := Host.Outcome.next.inj (e.symm.trans he)
  · exact (h.effect heff).respond r
  · exact h.effect heff

theorem State.Inv.engineTurn (h : s.Inv) (he : engineTurn s = .next t) : t.Inv := by
  cases hb : s.busy
  · obtain rfl := Host.Outcome.next.inj ((engineTurn_idle hb).symm.trans he)
    exact h
  · exact h.complete ((engineTurn_busy hb).symm.trans he)

/-- Settles O49: each turn of `step_cases` keeps the invariant. -/
theorem stepKeepsInvariant : Obligations.StepKeepsInvariant := by
  unfold Obligations.StepKeepsInvariant
  intro s t h hs
  rcases step_cases s with
    ⟨_, e⟩ | ⟨rest, _, e⟩ | ⟨rest, _, e⟩ | ⟨_, rest, i, _, _, e⟩ | ⟨_, rest, _, _, _, e⟩ <;>
    rw [e] at hs
  · exact h.engineTurn hs
  · exact (h.withAgenda rest).engineTurn hs
  · obtain rfl := Host.Outcome.next.inj hs
    exact applyReset_inv _
  · exact (h.withAgenda rest).exec hs
  · obtain rfl := Host.Outcome.next.inj hs
    exact h.withAgenda rest

/-- Settles O48: `State.reset` is the result of a reset, and its WS_SET is compared with the alphabet code by
code. -/
theorem invariantAtReset : Obligations.InvariantAtReset := by
  unfold Obligations.InvariantAtReset ParamsLegal
  refine ⟨?_, rfl, by decide⟩
  rw [State.reset_eq_applyReset]
  exact applyReset_inv _

/-! ### Reads of OUT (R24) -/

/-- Settles O51: the invariant defines entry `i` exactly when it is below OUT_LEN, which is 0 while BUSY and
after an error. -/
theorem outReadsDefinedExactlyBelowOutLen : Obligations.OutReadsDefinedExactlyBelowOutLen := by
  unfold Obligations.OutReadsDefinedExactlyBelowOutLen
  rintro s i ⟨-, ⟨hzero, -, hdefined⟩, -, -⟩
  refine ⟨fun h => ?_, fun h => ?_⟩
  · have habove : ¬ i.toNat < s.outLen.toNat := by
      rcases h with hb | he | hge
      · simp [hzero (.inl hb)]
      · simp [hzero (.inr he)]
      · exact Nat.not_lt.mpr hge
    rw [← hdefined, Bool.not_eq_true, Option.isSome_eq_false_iff, Option.isNone_iff_eq_none] at habove
    rw [exec_rd_outEntry_free habove, BitVec.ofNat_toNat]
    rfl
  · obtain ⟨b, hb⟩ := Option.isSome_iff_exists.mp ((hdefined i).mpr h)
    exact ⟨b, hb, readsAs_outEntry hb⟩

end Sys2Proof.Machine
end

section
/-! PROOFS. Steps and runs (00_scope.md R7): what the oldest turn does, what every step keeps, and what a list of
turns does to a running operation. Each statement about a run is an induction over its turns, with one lemma about
a single step. -/

namespace Sys2Proof.Machine

variable {s t u : State} {i : Instr} {rest : List Event}

/-! ### One turn -/

theorem step_engine (h : s.agenda = .engine :: rest ∨ (s.agenda = [] ∧ rest = [])) :
    step s = engineTurn (s.withAgenda rest) := by
  rcases h with h | ⟨h, rfl⟩
  · rw [step, h]
  · have hs : s.withAgenda [] = s := by rw [← h]; rfl
    rw [step, h, hs]

theorem step_reset (h : s.agenda = .reset :: rest) : step s = .next (s.withAgenda rest).applyReset := by
  rw [step, h]

theorem step_instr {b : BusOp} (h : s.agenda = .access b :: rest)
    (hd : decode s.params.basePage b = .instr i) : step s = exec i (s.withAgenda rest) := by
  simp [step, h, hd]

theorem step_rejected {b : BusOp} {e : DecodeError} (h : s.agenda = .access b :: rest)
    (hd : decode s.params.basePage b = .rejected e) : step s = .next (s.withAgenda rest) := by
  simp [step, h, hd]

/-- Settles O5: the arm of `step` for an access. -/
theorem stepExecutesTheDecodedAccess : Obligations.StepExecutesTheDecodedAccess := by
  unfold Obligations.StepExecutesTheDecodedAccess
  exact fun s b rest h => ⟨fun i => step_instr h, fun e => step_rejected h⟩

/-- Settles O6: the engine's turn by BUSY, and the arm of `step` for reset. -/
theorem engineAndResetTurns : Obligations.EngineAndResetTurns := by
  unfold Obligations.EngineAndResetTurns
  exact fun s rest => ⟨fun h => ⟨fun hb => (step_engine h).trans (engineTurn_busy hb),
    fun hb => (step_engine h).trans (engineTurn_idle hb)⟩, step_reset⟩

/-! ### What every step keeps, and where it stops (O50) -/

theorem Effect.keeps_params_agenda (h : Effect s u) : u.params = s.params ∧ u.agenda = s.agenda := by
  cases h <;> exact ⟨rfl, rfl⟩

theorem exec_keeps_params_agenda (he : exec i s = .next t) : t.params = s.params ∧ t.agenda = s.agenda := by
  obtain ⟨u, r, heff, e | ⟨-, e⟩⟩ := exec_effect i s <;> obtain rfl := Host.Outcome.next.inj (e.symm.trans he)
  · exact heff.keeps_params_agenda
  · exact heff.keeps_params_agenda

theorem complete_keeps_params_agenda (h : complete s = .next t) : t.params = s.params ∧ t.agenda = s.agenda := by
  rcases complete_eq_next h with ⟨out, _, rfl⟩ | ⟨kind, index, value, _, rfl⟩ <;> exact ⟨rfl, rfl⟩

theorem engineTurn_keeps_params_agenda (h : engineTurn s = .next t) :
    t.params = s.params ∧ t.agenda = s.agenda := by
  cases hb : s.busy
  · obtain rfl := Host.Outcome.next.inj ((engineTurn_idle hb).symm.trans h)
    exact ⟨rfl, rfl⟩
  · exact complete_keeps_params_agenda ((engineTurn_busy hb).symm.trans h)

theorem step_keeps_params_agenda (h : step s = .next t) : t.params = s.params ∧ t.agenda = s.agenda.tail := by
  rcases step_cases s with
    ⟨ha, e⟩ | ⟨rest, ha, e⟩ | ⟨rest, ha, e⟩ | ⟨_, rest, i, ha, _, e⟩ | ⟨_, rest, _, ha, _, e⟩ <;>
    rw [e] at h <;> rw [ha, List.tail]
  · rw [← ha]
    exact engineTurn_keeps_params_agenda h
  · exact engineTurn_keeps_params_agenda h
  · obtain rfl := Host.Outcome.next.inj h
    exact ⟨rfl, rfl⟩
  · exact exec_keeps_params_agenda h
  · obtain rfl := Host.Outcome.next.inj h
    exact ⟨rfl, rfl⟩

/-- Everything a turn of the engine can do. -/
theorem engineTurn_cases (s : State) :
    (∃ t, engineTurn s = .next t ∧ t.busy = false) ∨
    (s.busy = true ∧ complete s = .fault .unwrittenInput ∧ engineTurn s = .fault .unwrittenInput) := by
  cases hb : s.busy
  · exact .inl ⟨s, engineTurn_idle hb, hb⟩
  · rw [engineTurn_busy hb]
    rcases complete_cases s with ⟨out, _, h⟩ | ⟨kind, index, value, _, h⟩ | ⟨_, h⟩
    · exact .inl ⟨_, h, rfl⟩
    · exact .inl ⟨_, h, rfl⟩
    · exact .inr ⟨rfl, h, h⟩

/-- A step answers a next state, or it is the engine's turn and COMPLETE faults. -/
theorem step_answers (s : State) :
    (∃ t, step s = .next t) ∨
    (s.busy = true ∧ complete s = .fault .unwrittenInput ∧ step s = .fault .unwrittenInput) := by
  rcases step_cases s with
    ⟨_, e⟩ | ⟨rest, _, e⟩ | ⟨rest, _, e⟩ | ⟨_, rest, i, _, _, e⟩ | ⟨_, rest, _, _, _, e⟩ <;>
    rw [e]
  · rcases engineTurn_cases s with ⟨t, h, _⟩ | h
    · exact .inl ⟨t, h⟩
    · exact .inr h
  · rcases engineTurn_cases (s.withAgenda rest) with ⟨t, h, _⟩ | ⟨hb, hc, h⟩
    · exact .inl ⟨t, h⟩
    · exact .inr ⟨hb, complete_eq_fault_iff.mpr (complete_eq_fault_iff (s := s.withAgenda rest).mp hc), h⟩
  · exact .inl ⟨_, rfl⟩
  · exact .inl (exec_answers_next i _)
  · exact .inl ⟨_, rfl⟩

/-- Settles O50: `step_keeps_params_agenda`, and `step_answers` for the stops. -/
theorem stepKeepsParamsAndStopsOnlyUnwritten : Obligations.StepKeepsParamsAndStopsOnlyUnwritten := by
  unfold Obligations.StepKeepsParamsAndStopsOnlyUnwritten
  refine fun s => ⟨fun t => step_keeps_params_agenda, ?_⟩
  rcases step_answers s with ⟨t, e⟩ | ⟨hb, hc, e⟩ <;> rw [e]
  · exact ⟨nofun, nofun⟩
  · exact ⟨fun f hf => ⟨(Host.Outcome.fault.inj hf).symm, hb, hc⟩, nofun⟩

/-! ### Runs -/

theorem run_succ_of_next {n : Nat} (h : step s = .next t) : core.run (n + 1) s = core.run n t := by
  have h' : core.step s = .next t := h
  simp only [Host.Core.run, h']

theorem run_succ_of_fault {n : Nat} {f : Fault} (h : step s = .fault f) : core.run (n + 1) s = .fault f := by
  have h' : core.step s = .fault f := h
  simp only [Host.Core.run, h']

theorem run_one (s : State) : core.run 1 s = step s := by
  rcases step_answers s with ⟨t, h⟩ | ⟨_, _, h⟩ <;> rw [h]
  · exact run_succ_of_next h
  · exact run_succ_of_fault h

/-! ### An operation the host cannot disturb (R55, R93) -/

/-- An access while BUSY takes its turn and leaves the running operation as it was. -/
theorem step_access_busy {b : BusOp} (hb : s.busy = true) (ha : s.agenda = .access b :: rest) :
    ∃ t, step s = .next t ∧ t.busy = true ∧ t.result = s.result ∧ t.agenda = rest := by
  cases hd : decode s.params.basePage b with
  | instr i =>
    obtain ⟨t, he⟩ := exec_answers_next i (s.withAgenda rest)
    obtain ⟨hbusy, hresult, -, -⟩ := exec_busy_keeps (s := s.withAgenda rest) hb he
    exact ⟨t, (step_instr ha hd).trans he, hbusy, hresult, (exec_keeps_params_agenda he).2⟩
  | rejected e => exact ⟨_, step_rejected ha hd, hb, rfl, rfl⟩

theorem run_accesses_busy (es : List BusOp) (hb : s.busy = true) (ha : s.agenda = es.map .access ++ rest) :
    ∃ t : State, t.busy = true ∧ t.result = s.result ∧ t.agenda = rest ∧
      ∀ n, core.run (es.length + n) s = core.run n t := by
  induction es generalizing s with
  | nil => exact ⟨s, hb, rfl, ha, fun n => by rw [List.length_nil, Nat.zero_add]⟩
  | cons b es ih =>
    obtain ⟨u, hs, hub, hur, hua⟩ := step_access_busy hb ha
    obtain ⟨t, htb, htr, hta, hrun⟩ := ih hub hua
    refine ⟨t, htb, htr.trans hur, hta, fun n => ?_⟩
    rw [List.length_cons, Nat.add_right_comm, run_succ_of_next hs, hrun]

/-- Settles O52: after the accesses the operation is as it was, and the engine's turn completes it. -/
theorem hostAccessesCannotChangeARunningOperation : Obligations.HostAccessesCannotChangeARunningOperation := by
  unfold Obligations.HostAccessesCannotChangeARunningOperation
  intro es rest s hb ha
  obtain ⟨t, htb, htr, hta, hrun⟩ := run_accesses_busy es hb ha
  have hlast : core.run (es.length + 1) s = complete (t.withAgenda rest) := by
    rw [hrun, run_one, step_engine (.inl hta)]
    exact engineTurn_busy htb
  have hr : (t.withAgenda rest).result = s.result := htr
  rw [hlast]
  refine ⟨fun u hu => ?_, fun f hf => ?_⟩
  · obtain ⟨u', hu', hobs⟩ := complete_next_congr hr hu
    exact ⟨u', hu', hobs, (complete_keeps_params_agenda hu').2⟩
  · cases f
    exact complete_eq_fault_iff.mpr (hr.trans (complete_eq_fault_iff.mp hf))

/-! ### Every operation ends (R109, R110) -/

/-- Each listed turn is taken by one step, and the step after them is the engine's. -/
theorem run_agenda_ends (n : Nat) (h : s.agenda.length = n) :
    (∃ t, core.run (n + 1) s = .next t ∧ t.busy = false ∧ t.agenda = []) ∨
    core.run (n + 1) s = .fault .unwrittenInput := by
  induction n generalizing s with
  | zero =>
    have ha : s.agenda = [] := List.length_eq_zero_iff.mp h
    have hs : step s = engineTurn s := by rw [step, ha]
    rw [run_one, hs]
    rcases engineTurn_cases s with ⟨t, ht, hb⟩ | ⟨_, _, hf⟩
    · exact .inl ⟨t, ht, hb, (engineTurn_keeps_params_agenda ht).2.trans ha⟩
    · exact .inr hf
  | succ n ih =>
    rcases step_answers s with ⟨t, hs⟩ | ⟨_, _, hf⟩
    · have ht : t.agenda.length = n := by
        rw [(step_keeps_params_agenda hs).2, List.length_tail, h, Nat.add_sub_cancel]
      rw [run_succ_of_next hs]
      exact ih ht
    · exact .inr (run_succ_of_fault hf)

/-- Settles O53: `run_agenda_ends` for the agenda's own length. -/
theorem everyOperationEnds : Obligations.EveryOperationEnds := by
  unfold Obligations.EveryOperationEnds
  exact fun s => run_agenda_ends s.agenda.length rfl

/-! ### Reset wins (R93, R101) -/

/-- Nothing runs and nothing is published. -/
def State.Quiet (s : State) : Prop :=
  s.busy = false ∧ s.done = false ∧ s.err = false ∧ s.errCode = 0#3 ∧ s.outLen = 0#9 ∧ s.outBuf = []

theorem applyReset_quiet (s : State) : s.applyReset.Quiet := ⟨rfl, rfl, rfl, rfl, rfl, rfl⟩

/-- Only a word with START = 1 written to CMD ends the quiet. -/
theorem State.Quiet.writeWord (h : s.Quiet) {v : Word} {l : Loc} (hl : l ≠ .cmd) : (s.writeWord v l).Quiet := by
  rcases s.writeWord_cases v l with
    e | ⟨hcmd, _⟩ | ⟨_, e⟩ | ⟨_, e⟩ | ⟨_, e⟩ | ⟨_, _, e⟩ | ⟨_, _, _, e⟩
  · rwa [e]
  · exact absurd hcmd hl
  · rwa [e]
  · obtain ⟨hb, hd, hrest⟩ := h
    rw [e]
    exact ⟨hb, by simp [hd], hrest⟩
  · rwa [e]
  · rwa [e]
  · rwa [e]

/-- A 32-bit write to CMD decodes to its word's row, so a well-formed `wr` starts nothing. -/
theorem State.Quiet.exec (h : s.Quiet) (hi : ¬ IsStartRow i) (hwf : i.wellFormed = true)
    (he : exec i s = .next t) : t.Quiet := by
  cases i with
  | nop r =>
    obtain rfl := Host.Outcome.next.inj ((exec_nop r s).symm.trans he)
    exact h
  | rd off width =>
    rw [execRd_frame he]
    exact h
  | wr off width v =>
    rcases execWr_cases off width v s with ⟨ha, e⟩ | ⟨_, e⟩ <;>
      obtain rfl := Host.Outcome.next.inj (e.symm.trans he)
    · refine h.writeWord fun hl => (wellFormed_wr_iff off width v).mp hwf ⟨eq_of_locate_cmd hl, ?_⟩
      exact ((accessOk_iff off width).mp ha).1
    · exact h
  | _ => exact absurd trivial hi

/-- The turn's access, if it is one, decodes to no START row in the window of page `page`. -/
def StartsNothing (page : Nat) (e : Event) : Prop :=
  ∀ b, e = .access b → ∀ i, decode page b = .instr i → ¬ IsStartRow i

theorem State.Quiet.step {e : Event} (h : s.Quiet) (ha : s.agenda = e :: rest)
    (hns : StartsNothing s.params.basePage e) : ∃ t, step s = .next t ∧ t.Quiet := by
  cases e with
  | engine => exact ⟨_, (step_engine (.inl ha)).trans (engineTurn_idle h.1), h⟩
  | reset => exact ⟨_, step_reset ha, applyReset_quiet _⟩
  | access b =>
    cases hd : decode s.params.basePage b with
    | instr i =>
      obtain ⟨t, he⟩ := exec_answers_next i (s.withAgenda rest)
      have hquiet : (s.withAgenda rest).Quiet := h
      exact ⟨t, (step_instr ha hd).trans he, hquiet.exec (hns b rfl i hd) (decode_eq_instr hd).1 he⟩
    | rejected e => exact ⟨_, step_rejected ha hd, h⟩

theorem State.Quiet.run (es : List Event) (h : s.Quiet) (ha : s.agenda = es ++ rest)
    (hns : ∀ e ∈ es, StartsNothing s.params.basePage e) :
    ∃ t, core.run es.length s = .next t ∧ t.agenda = rest ∧ t.Quiet := by
  induction es generalizing s with
  | nil => exact ⟨s, rfl, ha, h⟩
  | cons e es ih =>
    obtain ⟨u, hs, hquiet⟩ := h.step ha (hns e List.mem_cons_self)
    obtain ⟨hparams, hagenda⟩ := step_keeps_params_agenda hs
    rw [ha, List.cons_append, List.tail_cons] at hagenda
    rw [List.length_cons, run_succ_of_next hs]
    refine ih hquiet hagenda fun e' he' => ?_
    rw [hparams]
    exact hns e' (List.mem_cons_of_mem e he')

/-- Settles O54: a reset leaves the machine quiet, and turns that start nothing keep it so. -/
theorem resetAbortsTheRunningOperation : Obligations.ResetAbortsTheRunningOperation := by
  unfold Obligations.ResetAbortsTheRunningOperation
  intro es rest s ha hns
  have hstarts : ∀ e ∈ es, StartsNothing s.params.basePage e := by
    rintro e he b rfl
    exact hns b he
  obtain ⟨u, hrun, hagenda, hb, hd, herr, hcode, hlen, hbuf⟩ :=
    (applyReset_quiet (s.withAgenda (es ++ rest))).run es rfl hstarts
  refine ⟨u, ?_, hagenda, hb, hd, herr, hcode, hlen, fun i => ?_⟩
  · rw [run_succ_of_next (step_reset ha), hrun]
  · rw [hbuf, Memory.read_nil]

end Sys2Proof.Machine
end

section
/-! PROOFS. Digits of numbers, and the codec's laws on them: the streaming datapaths (42_encode.md R70, 43_decode.md
R76), the laws of the encoder (R68, R73) and of the decoder (R80), and the pivot's bounds (10_state.md R29).
The groups and the bytes are the base-32 and the base-256 digits of one number, so each law is one of
digits. -/

namespace Sys2Proof.Machine

/-! ### Digits -/

theorem valueOf_append_singleton (b : Nat) (ds : List Nat) (d : Nat) :
    valueOf b (ds ++ [d]) = valueOf b ds * b + d := by
  simp [valueOf]

theorem valueOf_cons (b d : Nat) (ds : List Nat) : valueOf b (d :: ds) = d * b ^ ds.length + valueOf b ds := by
  induction ds using List.reverseRecOn with
  | nil => simp [valueOf]
  | append_singleton ds e ih =>
    rw [← List.cons_append, valueOf_append_singleton, valueOf_append_singleton, ih, List.length_append,
      List.length_singleton, Nat.pow_succ]
    ring

theorem digitsOf_length (b n v : Nat) : (digitsOf b n v).length = n := by
  simp [digitsOf]

/-- The leading digits are those of the number without its last ones. -/
theorem digitsOf_add (b m n v : Nat) :
    digitsOf b (m + n) v = digitsOf b m (v / b ^ n) ++ digitsOf b n v := by
  induction n generalizing v with
  | zero => simp [digitsOf]
  | succ n ih =>
    rw [← Nat.add_assoc, digitsOf_succ, ih, digitsOf_succ, List.append_assoc, Nat.div_div_eq_div_mul, Nat.pow_succ']

theorem digitsOf_one_add (b n v : Nat) : digitsOf b (1 + n) v = (v / b ^ n % b) :: digitsOf b n v := by
  rw [digitsOf_add]
  simp [digitsOf]

/-- A multiple of `b ^ n` does not reach the last `n` digits. -/
theorem digitsOf_mul_pow_add {b : Nat} (hb : 0 < b) (n k v : Nat) :
    digitsOf b n (k * b ^ n + v) = digitsOf b n v := by
  induction n generalizing v with
  | zero => rfl
  | succ n ih =>
    have hdiv : (k * b ^ (n + 1) + v) / b = k * b ^ n + v / b := by
      rw [Nat.pow_succ', Nat.mul_left_comm, Nat.mul_add_div hb]
    have hmod : (k * b ^ (n + 1) + v) % b = v % b := by
      rw [Nat.pow_succ', Nat.mul_left_comm, Nat.mul_add_mod]
    rw [digitsOf_succ, digitsOf_succ, hdiv, hmod, ih]

/-- An accumulator `a` before the digits `f` still to come: the leading digits come out of `a` alone, and what
is left of it goes before the rest. -/
theorem digitsOf_accumulator {b n B R f : Nat} (hb : 0 < b) (hB : b ^ n = R * B) (hf : f < B) (m a : Nat) :
    digitsOf b (m + n) (a * B + f) = digitsOf b m (a / R) ++ digitsOf b n (a % R * B + f) := by
  have hlead : (a * B + f) / b ^ n = a / R := by
    rw [hB, Nat.mul_comm R, ← Nat.div_div_eq_div_mul, Nat.mul_comm a, Nat.mul_add_div (by omega),
      Nat.div_eq_of_lt hf, Nat.add_zero]
  have hrest : a * B + f = a / R * b ^ n + (a % R * B + f) := by
    rw [hB, ← Nat.add_assoc, ← Nat.mul_assoc, ← Nat.add_mul, Nat.div_add_mod']
  rw [digitsOf_add, hlead]
  nth_rw 1 [hrest]
  rw [digitsOf_mul_pow_add hb]

theorem valueOf_digitsOf (b n v : Nat) : valueOf b (digitsOf b n v) = v % b ^ n := by
  induction n generalizing v with
  | zero => simp [digitsOf, valueOf, Nat.mod_one]
  | succ n ih =>
    rw [digitsOf_succ, valueOf_append_singleton, ih, Nat.pow_succ', Nat.mod_mul, Nat.mul_comm, Nat.add_comm]

theorem digitsOf_valueOf {b : Nat} {ds : List Nat} (h : ∀ d ∈ ds, d < b) :
    digitsOf b ds.length (valueOf b ds) = ds := by
  induction ds using List.reverseRecOn with
  | nil => rfl
  | append_singleton ds d ih =>
    have hd : d < b := h d (by simp)
    have hdiv : (valueOf b ds * b + d) / b = valueOf b ds := by
      rw [Nat.mul_comm, Nat.mul_add_div (by omega), Nat.div_eq_of_lt hd, Nat.add_zero]
    have hmod : (valueOf b ds * b + d) % b = d := by
      rw [Nat.mul_comm, Nat.mul_add_mod, Nat.mod_eq_of_lt hd]
    rw [List.length_append, List.length_singleton, digitsOf_succ, valueOf_append_singleton, hdiv, hmod,
      ih fun e he => h e (by simp [he])]

/-! ### Groups and bytes as digits -/

theorem groups_ext {g g' : List Group} (h : g.map (fun x => x.toNat) = g'.map fun x => x.toNat) : g = g' :=
  List.map_injective_iff.mpr (fun _ _ => BitVec.eq_of_toNat_eq) h

/-- A group sequence is the base-32 digits of its pivot. -/
theorem digitsOf_fromGroups (g : List Group) :
    digitsOf 32 g.length (fromGroups g) = g.map fun x => x.toNat := by
  have hlt : ∀ d ∈ g.map (fun x => x.toNat), d < 32 := by
    simpa using fun x _ => BitVec.isLt x
  have h := digitsOf_valueOf hlt
  rwa [List.length_map, ← fromGroups_eq_valueOf] at h

/-- A byte sequence is the base-256 digits of its number. -/
theorem asBytes_digitsOf_fromBE (b : List Byte) : asBytes (digitsOf 256 b.length (fromBE b)) = b := by
  have hlt : ∀ d ∈ b.map (fun x => x.toNat), d < 256 := by
    simpa using fun x _ => BitVec.isLt x
  have h := digitsOf_valueOf hlt
  rw [List.length_map, ← pivotOfBytes, ← fromBE_eq_pivotOfBytes] at h
  have hback : (fun d => BitVec.ofNat 8 d) ∘ (fun x : Byte => x.toNat) = id := by
    funext x
    exact (BitVec.ofNat_toNat 8 x).trans (BitVec.setWidth_eq x)
  rw [h, asBytes, List.map_map, hback, List.map_id]

theorem fromGroups_cons (x : Group) (g : List Group) :
    fromGroups (x :: g) = x.toNat * 32 ^ g.length + fromGroups g := by
  rw [fromGroups_eq_valueOf, fromGroups_eq_valueOf, List.map_cons, valueOf_cons, List.length_map]

/-- A group has five bits, and a byte eight. -/
theorem pow32_eq (n : Nat) : 32 ^ n = 2 ^ (5 * n) := (Nat.pow_mul 2 5 n).symm

theorem pow256_eq (n : Nat) : 256 ^ n = 2 ^ (8 * n) := (Nat.pow_mul 2 8 n).symm

theorem fromBE_lt_pow (b : List Byte) : fromBE b < 256 ^ b.length := by
  rw [pow256_eq]
  exact fromBE_lt b

theorem fromGroups_lt_pow (g : List Group) : fromGroups g < 32 ^ g.length := by
  rw [pow32_eq]
  exact fromGroups_lt g

/-- Shifting in `w` new bits. -/
theorem shiftLeft_or_toNat {w : Nat} (acc : Nat) (x : BitVec w) : acc <<< w ||| x.toNat = acc * 2 ^ w + x.toNat := by
  rw [← Nat.shiftLeft_add_eq_or_of_lt x.isLt, Nat.shiftLeft_eq]

/-! ### The counts of R68 -/

/-- Settles O37: the counts are quotients, by the remainder of `n` modulo 5. -/
theorem groupCountsOfR68 : Obligations.GroupCountsOfR68 := by
  unfold Obligations.GroupCountsOfR68
  intro n
  rw [padCount, groupCount_eq]
  refine ⟨fun g => by omega, by omega, rfl, rfl, rfl, ?_⟩
  split_ifs <;> omega

theorem groupCount_mul_five (n : Nat) : 5 * groupCount n = 8 * n + padCount n := by
  rw [padCount, groupCount_eq]
  omega

theorem padCount_le (n : Nat) : padCount n ≤ 4 := by
  rw [padCount, groupCount_eq]
  omega

/-! ### The encoder's datapath (R70) -/

/-- The groups that come out are the digits of the accumulator above the bits it keeps. -/
theorem emitGroups_toNat (fuel acc count : Nat) (h : count < 5 * (fuel + 1)) :
    (emitGroups fuel acc count).map (fun g => g.toNat) = digitsOf 32 (count / 5) (acc / 2 ^ (count % 5)) := by
  induction fuel generalizing count with
  | zero =>
    rw [Nat.div_eq_of_lt (by omega)]
    rfl
  | succ fuel ih =>
    rw [emitGroups]
    split
    · next hlt =>
      rw [Nat.div_eq_of_lt hlt]
      rfl
    · next hge =>
      obtain ⟨c, rfl⟩ : ∃ c, count = c + 5 := ⟨count - 5, by omega⟩
      have hhead : acc / 2 ^ (c % 5) / 32 ^ (c / 5) = acc / 2 ^ c := by
        rw [Nat.div_div_eq_div_mul, pow32_eq, ← Nat.pow_add, Nat.mod_add_div]
      rw [Nat.add_sub_cancel, List.map_cons, ih c (by omega), Nat.add_mod_right, Nat.add_div_right c (by decide),
        Nat.add_comm (c / 5), digitsOf_one_add, hhead, BitVec.toNat_ofNat, Nat.shiftRight_eq_div_pow]

/-- With `count` bits held before the bytes of `b`, a number of bits that makes whole groups, the groups are the
digits of those bits. -/
theorem encStreamFrom_toNat (b : List Byte) (acc count : Nat) (hc : count < 5)
    (h5 : (count + 8 * b.length) % 5 = 0) :
    (encStreamFrom acc count b).map (fun g => g.toNat) =
      digitsOf 32 ((count + 8 * b.length) / 5) (acc * 256 ^ b.length + fromBE b) := by
  induction b generalizing acc count with
  | nil =>
    rw [List.length_nil, Nat.mul_zero, Nat.add_zero, Nat.div_eq_of_lt hc]
    rfl
  | cons x b ih =>
    have hlen : (count + 8 * (x :: b).length) / 5 =
        (count + 8) / 5 + ((count + 8) % 5 + 8 * b.length) / 5 := by
      rw [List.length_cons] at h5 ⊢
      omega
    have hvalue : acc * 256 ^ (x :: b).length + fromBE (x :: b) =
        (acc * 2 ^ 8 + x.toNat) * 256 ^ b.length + fromBE b := by
      rw [fromBE_cons, List.length_cons, Nat.pow_succ]
      ring
    have hmod : ((count + 8) % 5 + 8 * b.length) % 5 = 0 := by
      rw [List.length_cons] at h5
      omega
    have hpow : 32 ^ (((count + 8) % 5 + 8 * b.length) / 5) = 2 ^ ((count + 8) % 5) * 256 ^ b.length := by
      rw [pow32_eq, pow256_eq, ← Nat.pow_add]
      congr 1
      omega
    rw [encStreamFrom, List.map_append, shiftLeft_or_toNat, emitGroups_toNat _ _ _ (by omega),
      ih _ _ (Nat.mod_lt _ (by decide)) hmod, hlen, hvalue,
      digitsOf_accumulator (by decide) hpow (fromBE_lt_pow b)]

/-- Settles O39: `p(n)` zero bits before the input make the groups whole, and change no digit. -/
theorem encStreamRefinesR69 : Obligations.EncStreamRefinesR69 := by
  unfold Obligations.EncStreamRefinesR69
  intro b
  have hbits : padCount b.length + 8 * b.length = 5 * groupCount b.length := by
    rw [groupCount_mul_five, Nat.add_comm]
  have hpad := padCount_le b.length
  refine groups_ext ?_
  rw [encStream, encStreamFrom_toNat b 0 _ (by omega) (by omega), hbits, Nat.mul_div_cancel_left _ (by decide),
    Nat.zero_mul, Nat.zero_add, encGroups_toNat]

end Sys2Proof.Machine
end

section
/-! PROOFS. The laws of the encoder (42_encode.md R73), the decoder's datapath and laws (43_decode.md R76, R80) and the
bounds of the pivot (10_state.md R29), each from the digits of the number that the groups and the bytes
share. -/

namespace Sys2Proof.Machine

/-! ### The laws of the encoder (R73) -/

theorem pow_groupCount (n : Nat) : 32 ^ groupCount n = 2 ^ (8 * n + padCount n) := by
  rw [pow32_eq, groupCount_mul_five]

/-- The groups of `b` have room for its number. -/
theorem fromBE_lt_pow_groupCount (b : List Byte) : fromBE b < 32 ^ groupCount b.length := by
  rw [pow_groupCount]
  exact Nat.lt_of_lt_of_le (fromBE_lt b) (Nat.pow_le_pow_right (by decide) (Nat.le_add_right ..))

/-- R73 law 3. -/
theorem valueOf_encGroups (b : List Byte) : valueOf 32 ((encGroups b).map fun g => g.toNat) = fromBE b := by
  rw [encGroups_toNat, valueOf_digitsOf, Nat.mod_eq_of_lt (fromBE_lt_pow_groupCount b)]

/-- R73 law 1: the forty group counts. -/
theorem groupCount_mem : ∀ n, 1 ≤ n → n ≤ 40 →
    groupCount n ∈ [2, 4, 5, 7, 8, 10, 12, 13, 15, 16, 18, 20, 21, 23, 24, 26, 28, 29, 31, 32, 34,
      36, 37, 39, 40, 42, 44, 45, 47, 48, 50, 52, 53, 55, 56, 58, 60, 61, 63, 64] := by
  intro n hpos hle
  interval_cases n <;> decide

/-- R73 law 2: the pad bits at the head of the first group are 0. -/
theorem encGroups_head {b : List Byte} (h : 1 ≤ b.length) :
    ∃ g rest, encGroups b = g :: rest ∧ g.toNat < 2 ^ (5 - padCount b.length) := by
  have hcount := groupCount_mul_five b.length
  have hpad := padCount_le b.length
  obtain ⟨k, hk⟩ : ∃ k, groupCount b.length = 1 + k := ⟨groupCount b.length - 1, by omega⟩
  have hdigits := encGroups_toNat b
  rw [hk, digitsOf_one_add] at hdigits
  cases hg : encGroups b with
  | nil => simp [hg] at hdigits
  | cons g rest =>
    rw [hg, List.map_cons, List.cons.injEq] at hdigits
    have hbits : 8 * b.length = 5 * k + (5 - padCount b.length) := by omega
    have hlead : fromBE b / 32 ^ k < 2 ^ (5 - padCount b.length) := by
      refine Nat.div_lt_of_lt_mul ?_
      have := fromBE_lt b
      rwa [hbits, Nat.pow_add, Nat.pow_mul] at this
    exact ⟨g, rest, rfl, hdigits.1 ▸ Nat.lt_of_le_of_lt (Nat.mod_le ..) hlead⟩

/-- Settles O40: one lemma for each law. -/
theorem encodeLawsOfR73 : Obligations.EncodeLawsOfR73 := by
  unfold Obligations.EncodeLawsOfR73
  intro b hpos hlen
  refine ⟨?_, encGroups_head hpos, valueOf_encGroups b, fun g _ => sym_mem_alphabet g⟩
  rw [encGroups_length]
  exact groupCount_mem _ hpos hlen

/-! ### The decoder's datapath (R76) -/

/-- A byte keeps the lowest base-256 digit of its number. -/
theorem asBytes_digitsOf_one_append (v : Nat) (ds : List Nat) :
    asBytes (digitsOf 256 1 v ++ ds) = BitVec.ofNat 8 v :: asBytes ds := by
  have hbyte : BitVec.ofNat 8 (v % 256) = BitVec.ofNat 8 v := BitVec.eq_of_toNat_eq (by simp)
  simp [asBytes, digitsOf, hbyte]

/-- With `count` bits held before the groups of `g`, a number of bits that makes whole bytes, the bytes are the
digits of those bits. -/
theorem decStreamFrom_eq (g : List Group) (acc count : Nat) (hc : count < 8)
    (h8 : (count + 5 * g.length) % 8 = 0) :
    decStreamFrom acc count g =
      asBytes (digitsOf 256 ((count + 5 * g.length) / 8) (acc * 32 ^ g.length + fromGroups g)) := by
  induction g generalizing acc count with
  | nil =>
    rw [List.length_nil, Nat.mul_zero, Nat.add_zero, Nat.div_eq_of_lt hc]
    rfl
  | cons x g ih =>
    have hvalue : acc * 32 ^ (x :: g).length + fromGroups (x :: g) =
        (acc * 2 ^ 5 + x.toNat) * 32 ^ g.length + fromGroups g := by
      rw [fromGroups_cons, List.length_cons, Nat.pow_succ]
      ring
    have hlen : count + 5 * (x :: g).length = count + 5 + 5 * g.length := by
      rw [List.length_cons]
      omega
    rw [hlen] at h8 ⊢
    rw [decStreamFrom, hvalue, shiftLeft_or_toNat]
    split
    · next hge =>
      obtain ⟨c, hcount⟩ : ∃ c, count + 5 = c + 8 := ⟨count + 5 - 8, by omega⟩
      have hbytes : (count + 5 + 5 * g.length) / 8 = 1 + (c + 5 * g.length) / 8 := by omega
      have hpow : 256 ^ ((c + 5 * g.length) / 8) = 2 ^ c * 32 ^ g.length := by
        rw [pow32_eq, pow256_eq, ← Nat.pow_add]
        congr 1
        omega
      rw [hbytes, digitsOf_accumulator (by decide) hpow (fromGroups_lt_pow g), hcount, Nat.add_sub_cancel,
        ih _ c (by omega) (by omega), asBytes_digitsOf_one_append, Nat.shiftRight_eq_div_pow]
    · next hlt => exact ih _ _ (by omega) h8

/-- The exact-fit bytes, before them the byte of the head `H` (R75, R76). -/
theorem asBytes_digitsOf_fit_succ (n v : Nat) :
    asBytes (digitsOf 256 (n + 1) v) = BitVec.ofNat 8 (v / 256 ^ n) :: asBytes (digitsOf 256 n v) := by
  rw [Nat.add_comm, digitsOf_add, asBytes_digitsOf_one_append]

theorem pow_fit (k : Nat) : 32 ^ k = 256 ^ (5 * k / 8) * 2 ^ (5 * k % 8) := by
  rw [pow32_eq, pow256_eq, ← Nat.pow_add, Nat.div_add_mod]

/-- The head `H` has the bits beyond the exact fit. -/
theorem head_lt (g : List Group) : fromGroups g / 256 ^ (5 * g.length / 8) < 2 ^ (5 * g.length % 8) := by
  refine Nat.div_lt_of_lt_mul ?_
  rw [← pow_fit]
  exact fromGroups_lt_pow g

theorem head_eq_zero_iff (g : List Group) :
    fromGroups g / 256 ^ (5 * g.length / 8) = 0 ↔ fromGroups g < 256 ^ (5 * g.length / 8) :=
  Nat.div_eq_zero_iff_lt (by positivity)

/-- R76: DEC_BYTES is the exact-fit bytes, after the head when it is not 0. -/
theorem decBytes_eq_head_append (g : List Group) :
    decBytes g = (if fromGroups g / 256 ^ (5 * g.length / 8) = 0 then []
      else [BitVec.ofNat 8 (fromGroups g / 256 ^ (5 * g.length / 8))]) ++
        asBytes (digitsOf 256 (5 * g.length / 8) (fromGroups g)) := by
  rw [decBytes_eq_digitsOf, decodedLength]
  simp only [head_eq_zero_iff]
  split
  · rfl
  · exact asBytes_digitsOf_fit_succ ..

/-- The head's byte is 0 exactly when the head is, for the head has less than 8 bits. -/
theorem headByte_eq_zero_iff (g : List Group) :
    BitVec.ofNat 8 (fromGroups g / 256 ^ (5 * g.length / 8)) = 0#8 ↔
      fromGroups g / 256 ^ (5 * g.length / 8) = 0 := by
  have hbits : 2 ^ (5 * g.length % 8) ≤ 2 ^ 8 :=
    Nat.pow_le_pow_right (by decide) (Nat.le_of_lt (Nat.mod_lt _ (by decide)))
  have hlt := Nat.lt_of_lt_of_le (head_lt g) hbits
  rw [← BitVec.toNat_inj, BitVec.toNat_ofNat, Nat.mod_eq_of_lt hlt, BitVec.toNat_zero]

/-- With `8 - r(k)` zero bits before the groups, the first byte out is the head's. -/
theorem decStream_eq_decBytes (g : List Group) : decStream g = decBytes g := by
  rw [decStream, fitRest, decBytes_eq_head_append]
  split
  · next hrest =>
    have hhead : fromGroups g / 256 ^ (5 * g.length / 8) = 0 := by
      have := head_lt g
      rwa [hrest, Nat.pow_zero, Nat.lt_one_iff] at this
    rw [if_pos hhead, decStreamFrom_eq g 0 0 (by decide) (by omega), Nat.zero_mul, Nat.zero_add, Nat.zero_add,
      List.nil_append]
  · next hrest =>
    have hlen : (8 - 5 * g.length % 8 + 5 * g.length) / 8 = 5 * g.length / 8 + 1 := by omega
    rw [decStreamFrom_eq g 0 _ (by omega) (by omega), hlen, Nat.zero_mul, Nat.zero_add, asBytes_digitsOf_fit_succ]
    simp only [headByte_eq_zero_iff]
    split <;> rfl

/-- Settles O41: `decStream_eq_decBytes` and `decBytes_eq_head_append`. -/
theorem decStreamRefinesR75 : Obligations.DecStreamRefinesR75 := by
  unfold Obligations.DecStreamRefinesR75
  refine fun g => ⟨decStream_eq_decBytes g, ?_⟩
  rintro v h rfl rfl
  rw [← fromGroups_eq_valueOf]
  exact decBytes_eq_head_append g

/-! ### The laws of the decoder (R80) -/

theorem decBytes_length (g : List Group) : (decBytes g).length = decodedLength g.length (fromGroups g) := by
  rw [decBytes_eq_digitsOf, asBytes, List.length_map, digitsOf_length]

theorem fromBE_decBytes (g : List Group) : fromBE (decBytes g) = fromGroups g := by
  rw [decBytes_eq_padTo, fromBE_padTo, fromBE_toBE]

/-- A pivot of groups that make whole bytes fits them. -/
theorem decodedLength_of_fit {g : List Group} (h : 5 * g.length % 8 = 0) :
    decodedLength g.length (fromGroups g) = 5 * g.length / 8 := by
  have hlt := fromGroups_lt_pow g
  rw [pow_fit, h, Nat.pow_zero, Nat.mul_one] at hlt
  rw [decodedLength, if_pos hlt]

theorem decodedLength_le (k v : Nat) : decodedLength k v ≤ 5 * k / 8 + 1 := by
  rw [decodedLength]
  split <;> omega

/-- Settles O42: `decBytes_length` with the two bounds of `decodedLength`, and `fromBE_decBytes`. -/
theorem decodeLengthLawsOfR80 : Obligations.DecodeLengthLawsOfR80 := by
  unfold Obligations.DecodeLengthLawsOfR80
  rintro g v rfl
  rw [← fromGroups_eq_valueOf, decBytes_length]
  have hfit := decodedLength_of_fit (g := g)
  have hle := decodedLength_le g.length (fromGroups g)
  refine ⟨rfl, fun h => hfit (by omega), fun h => ⟨?bound, fun hmax => ?reached⟩, fromBE_decBytes g⟩
  case bound => by_cases hk : g.length = 64 <;> omega
  case reached => omega

/-- Encoding after decoding gives as many groups exactly when they are the same groups. -/
theorem encGroups_decBytes_eq_iff (g : List Group) :
    encGroups (decBytes g) = g ↔ groupCount (decodedLength g.length (fromGroups g)) = g.length := by
  refine ⟨fun h => ?_, fun h => groups_ext ?_⟩
  · rw [← decBytes_length, ← encGroups_length, h]
  · rw [encGroups_toNat, decBytes_length, h, fromBE_decBytes, digitsOf_fromGroups]

/-- Settles O43: the count comes back exactly when the bits lost or added are fewer than a group's five. -/
theorem encodeAfterDecode : Obligations.EncodeAfterDecode := by
  unfold Obligations.EncodeAfterDecode
  intro g
  rw [encGroups_decBytes_eq_iff, ← fromGroups_eq_valueOf, groupCount_eq, decodedLength]
  split
  · next hfits => simp only [hfits, and_true]; omega
  · next hover => simp only [hover, and_false, iff_false]; omega

theorem fromGroups_zero_cons (g : List Group) : fromGroups (0#5 :: g) = fromGroups g := by
  simp [fromGroups_cons]

/-- Settles O45: a pivot that does not fit has its minimal bytes, whatever zero groups stand before it. -/
theorem decodeIsNotInjective : Obligations.DecodeIsNotInjective := by
  unfold Obligations.DecodeIsNotInjective
  refine ⟨fun g h => ?_, by decide, by decide, by decide, by decide⟩
  rw [← fromGroups_eq_valueOf] at h
  have hlong : fitLength g.length + 1 ≤ (toBE (fromGroups g)).length := by
    rw [Nat.succ_le_iff, ← Nat.not_le, toBE_length_le_iff, Nat.pow_mul, Nat.not_lt]
    exact h
  have hfit : fitLength (0#5 :: g).length ≤ fitLength g.length + 1 := by
    rw [fitLength, fitLength, List.length_cons]
    omega
  rw [decBytes_eq_padTo, decBytes_eq_padTo, fromGroups_zero_cons, padTo_of_le_length (Nat.le_trans hfit hlong),
    padTo_of_le_length (Nat.le_of_succ_le hlong)]

/-! ### Decoding after encoding (R73 law 5, R80 law 4) -/

/-- The groups of `b` decode to its own length: the pad bits do not make a byte. -/
theorem decBytes_encGroups (b : List Byte) : decBytes (encGroups b) = b := by
  have hvalue : fromGroups (encGroups b) = fromBE b := by rw [fromGroups_eq_valueOf, valueOf_encGroups]
  have hcount := groupCount_mul_five b.length
  have hpad := padCount_le b.length
  have hfit : 5 * groupCount b.length / 8 = b.length := by omega
  rw [decBytes_eq_digitsOf, hvalue, encGroups_length, decodedLength, hfit, if_pos (fromBE_lt_pow b),
    asBytes_digitsOf_fromBE]

section RoundTrip

variable {s s' u u' : State} {i : Instr} {b c out out' : List Byte}

theorem Performs.unique (h : Performs i s u) (h' : Performs i s u') : u = u' := by
  obtain ⟨t, he, -, hc⟩ := h
  obtain ⟨t', he', -, hc'⟩ := h'
  obtain rfl := Host.Outcome.next.inj (he.symm.trans he')
  exact Host.Outcome.next.inj (hc.symm.trans hc')

theorem State.Succeeded.unique (h : u.Succeeded out) (h' : u.Succeeded out') : out = out' := by
  obtain ⟨-, -, -, -, -, -, -, hread⟩ := h
  obtain ⟨-, -, -, -, -, -, -, hread'⟩ := h'
  exact List.ext_getElem? fun j => (hread j).symm.trans (hread' j)

/-- What an encode publishes is the groups of its input, in its form. -/
theorem encode_publishes {op : BitVec 3} {form : Group → Byte}
    (hop : ∀ nullin ws len inp, opResult op nullin false ws len inp = encodeResult form nullin len inp)
    (hb : s.busy = false) (hpos : 1 ≤ b.length) (hlen : b.length ≤ 40) (hin : s.HoldsInput b)
    (hp : Performs (opRow op false) s u) (hc : u.Succeeded c) : c = (encGroups b).map form := by
  obtain ⟨u', hp', hout⟩ := performs_of_ok hb (exec_opRow op false s)
    ((hop ..).trans (encodeResult_holdsInput hpos hlen hin))
  obtain rfl := hp.unique hp'
  exact hc.unique hout

/-- An encode's output is a legal decode input. -/
theorem encGroups_length_bounds (hpos : 1 ≤ b.length) (hlen : b.length ≤ 40) :
    1 ≤ (encGroups b).length ∧ (encGroups b).length ≤ 64 := by
  rw [encGroups_length, groupCount_eq]
  omega

theorem decRaw_encGroups (hb : s.busy = false) (hpos : 1 ≤ b.length) (hlen : b.length ≤ 40)
    (hin : s.HoldsInput ((encGroups b).map fun g => g.setWidth 8)) :
    ∃ u, Performs (.decRaw false) s u ∧ u.Succeeded b := by
  obtain ⟨hmin, hmax⟩ := encGroups_length_bounds hpos hlen
  have hgroups : ∀ e ∈ (encGroups b).map (fun g => g.setWidth 8), notGroup e = false := by
    intro e he
    obtain ⟨g, -, rfl⟩ := List.mem_map.mp he
    rw [notGroup_eq_false_iff, BitVec.toNat_setWidth_of_le (by decide)]
    exact g.isLt
  have hback : ((encGroups b).map fun g => g.setWidth 8).map (fun e => e.setWidth 5) = encGroups b := by
    have hid : (fun e : Byte => e.setWidth 5) ∘ (fun g : Group => g.setWidth 8) = id := by
      funext g
      simp
    rw [List.map_map, hid, List.map_id]
  refine decRaw_succeeds hb ((decRawResult_holdsInput (by simpa using hmin) (by simpa using hmax) hin).trans ?_)
  rw [orInvalidSymbol_of_none hgroups, hback, decBytes_encGroups]

theorem decSym_encGroups (hb : s.busy = false) (hpos : 1 ≤ b.length) (hlen : b.length ≤ 40)
    (hws : ParamsLegal s.params) (hin : s.HoldsInput ((encGroups b).map sym)) :
    ∃ u, Performs (.decSym false) s u ∧ u.Succeeded b := by
  obtain ⟨hmin, hmax⟩ := encGroups_length_bounds hpos hlen
  have hmem : ∀ e ∈ (encGroups b).map sym, e ∈ alphabet := by
    intro e he
    obtain ⟨g, -, rfl⟩ := List.mem_map.mp he
    exact sym_mem_alphabet g
  have hnotBlank : ∃ x ∈ (encGroups b).map sym, x ∉ s.params.wsSet := by
    obtain ⟨x, hx⟩ := List.exists_mem_of_length_pos ((List.length_map sym).symm ▸ hmin)
    exact ⟨x, hx, fun hxws => hws x hxws (hmem x hx)⟩
  refine decSym_succeeds hb
    ((decSymResult_symbols (by simpa using hmin) (by simpa using hmax) hin hnotBlank).trans ?_)
  rw [orInvalidSymbol_of_none fun e he => (notSymbol_eq_false_iff e).mpr (hmem e he), filterMap_index_map_sym,
    decBytes_encGroups]

end RoundTrip

/-- Settles O44: an encode publishes the groups in its form (`encode_publishes`), and the decode of that form gives
the bytes back. -/
theorem decodeAfterEncodeIsIdentity : Obligations.DecodeAfterEncodeIsIdentity := by
  unfold Obligations.DecodeAfterEncodeIsIdentity
  intro s u s' b c hb hb' hpos hlen hin hin' hc
  refine ⟨fun hp => ?_, fun hws hp => ?_⟩
  · obtain rfl := encode_publishes (op := 0b000#3) opResult_encRaw hb hpos hlen hin hp hc
    exact decRaw_encGroups hb' hpos hlen hin'
  · obtain rfl := encode_publishes (op := 0b010#3) opResult_encSym hb hpos hlen hin hp hc
    exact decSym_encGroups hb' hpos hlen hws hin'

/-! ### The bounds of the pivot (R29) -/

/-- Settles O47: the bits of the longest input of each family. -/
theorem pivotBoundsOfR29 : Obligations.PivotBoundsOfR29 := by
  unfold Obligations.PivotBoundsOfR29
  refine ⟨fun b h => (fromBE_lt b).trans_le ?_, fun g h => (fromGroups_lt g).trans_le ?_,
    fun b h => (fromBE_lt b).trans_le ?_⟩ <;> rw [Nat.pow_le_pow_iff_right (by decide)]
  · rw [groupCount_eq] at h
    omega
  · omega
  · omega

end Sys2Proof.Machine
end
